-- ==== Sys2Proof/Word.lean ====
section
/-! DEFINITION. The words of the 7240: the plain bit vectors of spec section 3.2 and the table type the
larger stores of the part are kept in (the operations on tables stand in Machine/Table.lean). -/

namespace Sys2Proof

/-- A byte of a message, a label or a management command. -/
abbrev Byte := BitVec 8

/-- A word address: 22 bits, one memory word each (00_scope.md section 3.2). -/
abbrev WordAddr := BitVec 22

/-- A lane mask: bit k names byte lane k (00_scope.md section 3.2). -/
abbrev Lanes := BitVec 4

/-- A sparse store: keys with their values. A key that is not listed holds the store's default value. -/
abbrev Table (α : Type) := List (Nat × α)

end Sys2Proof
end

