-- ==== Sys2Proof/Syntax.lean ====
section
/-! DEFINITION. The commands: one constructor for each row of spec/opcode_table.json, in the table's order, with the
operands the row's rule gives the event. -/

namespace Sys2Proof

/-- The two control ports (02, opening). -/
inductive PortId where
  | a
  | b
  deriving DecidableEq, Repr

/-- The strap pins as they stand when RSTN rises (R55). -/
structure Straps where
  xbase : BitVec 8
  nbase : BitVec 8
  dsel : BitVec 2
  lsel : BitVec 2
  ssel : BitVec 2
  post : Bool
  eccen : Bool
  aparen : Bool
  bist : Bool
  deriving DecidableEq, Repr

/-- A request as a processor presents it (R21). The data and check bits belong to a write; a read's are not looked at. -/
structure Request where
  addr : WordAddr
  write : Bool
  lanes : Lanes
  parity : Bool
  data : BitVec 32
  check : BitVec 7
  deriving DecidableEq, Repr

/-- The eight bytes of a STATUS message, in the order of R155. -/
structure StatusBytes where
  kind : Byte
  tagHigh : Byte
  tagLow : Byte
  digestHigh : Byte
  digestLow : Byte
  flags : Byte
  capacity : Byte
  check : Byte
  deriving DecidableEq, Repr

/-- What the part finds on its input pins as RSTN rises: the strap pins (R55), and the level of each return line, bit c for
channel c, set where the line is at the level that is mark with RXINV clear (R154). -/
structure Pins where
  straps : Straps
  lines : BitVec 16
  deriving DecidableEq, Repr

/-- The commands of the 7240. A channel's line is named by its number 0..15; the arguments of a management command are
the bytes that carry them (R171), so that the part's own range checks are seen. -/
inductive Instr where
  /-- RSTN_FALL (R35). -/
  | rstnFall
  /-- RSTN_RISE (R55), with the strap pins and the return lines at that moment. -/
  | rstnRise (pins : Pins)
  /-- SELFTEST_COMPLETION (R57), with the result of the self-test. -/
  | selftestCompletion (pass : Bool)
  /-- CONTROL_REQUEST (R22): a processor presents a request at its port. -/
  | controlRequest (port : PortId) (req : Request)
  /-- WAIT_TIMEOUT (R32). -/
  | waitTimeout (port : PortId)
  /-- ISSUE (R39). -/
  | issue
  /-- READ_COMPLETION (R40), with the word memory returns. -/
  | readCompletion (data : BitVec 32) (check : BitVec 7)
  /-- WRITE_COMPLETION (R41). -/
  | writeCompletion
  /-- MEMORY_TIMEOUT (R43). -/
  | memoryTimeout
  /-- LOAN_REQUEST (R49): LOANREQ is asserted. -/
  | loanRequest
  /-- LOAN_GRANT (R50). -/
  | loanGrant
  /-- LOAN_END (R52): LOANREQ is deasserted. -/
  | loanEnd
  /-- LOAN_WITHDRAWAL (R53): LOANREQ is deasserted. -/
  | loanWithdrawal
  /-- REFIN_PULSE (R87): REFIN rises. -/
  | refinPulse
  /-- FREE_RUNNING_SWITCH_POINT (R86). -/
  | freeRunningSwitchPoint
  /-- WINDOW_EXPIRY (R89). -/
  | windowExpiry
  /-- STATUS_LOST (R164). -/
  | statusLost (chan : Fin 16)
  /-- ENDPOINT_STALLED (R164). -/
  | endpointStalled (chan : Fin 16)
  /-- DEBT_TICK (R140). -/
  | debtTick (chan : Fin 16)
  /-- STARTING_TIMEOUT (R161). -/
  | startingTimeout (chan : Fin 16)
  /-- CROSSPOINT_VISIT (R117). -/
  | crosspointVisit
  /-- NAME_CHANGE_VISIT (R118). -/
  | nameChangeVisit
  /-- MESSAGE_END (R128). -/
  | messageEnd (chan : Fin 16)
  /-- STATUS (R157): eight bytes, one after another, the last ending now. -/
  | status (chan : Fin 16) (msg : StatusBytes)
  /-- FRAMING_ERROR (R154). -/
  | framingError (chan : Fin 16)
  /-- UNKNOWN_TYPE (R156). -/
  | unknownType (chan : Fin 16) (byte : Byte)
  /-- RETURN_GAP_EXPIRY (R156). -/
  | returnGapExpiry (chan : Fin 16)
  /-- TRANSACTION_BEGIN (R169): MCS falls. -/
  | transactionBegin
  /-- TRANSACTION_END (R170): MCS rises. -/
  | transactionEnd
  /-- UNKNOWN_COMMAND (R170): a byte arrives on MDI that is not the last byte of a command with a row of its own. As a
  transaction's first byte, with a code that is not in the table, it is an unknown command; otherwise it is held towards
  one, or follows one executed. -/
  | unknownCommand (code : Byte)
  /-- IDENTIFY, code 0x01 (R172). -/
  | identify
  /-- READ_STATUS, code 0x02 (R172). -/
  | readStatus
  /-- READ_FAULT, code 0x03 (R173). -/
  | readFault (cls : Byte)
  /-- CLEAR_EVENTS, code 0x04 (R80). -/
  | clearEvents (mask : Byte)
  /-- SET_IRQ_MASK, code 0x05 (R175). -/
  | setIrqMask (mask : Byte)
  /-- SET_PARAM, code 0x10 (R174). `byteOnLine`: the level of the named channel's return line if a byte is in reception
  on it at the event, as in `Pins.lines`; R154 asks it of a change of RXINV. -/
  | setParam (number : Byte) (chan : Byte) (value : BitVec 16) (byteOnLine : Option Bool)
  /-- GET_PARAM, code 0x11 (R174). -/
  | getParam (number : Byte) (chan : Byte)
  /-- ASSIGN, code 0x20 (R113). -/
  | assign (chan : Byte) (tile : Byte) (level : Byte) (dest : BitVec 16)
  /-- UNASSIGN, code 0x21 (R115). -/
  | unassign (chan : Byte) (tile : Byte)
  /-- READ_TILE, code 0x22 (R173). -/
  | readTile (chan : Byte) (tile : Byte)
  /-- START_CHANNELS, code 0x30 (R160). -/
  | startChannels (mask : BitVec 16)
  /-- STOP_CHANNELS, code 0x31 (R166). -/
  | stopChannels (mask : BitVec 16)
  /-- READ_CHANNEL, code 0x32 (R173). -/
  | readChannel (chan : Byte)
  /-- RESYNC, code 0x40 (R176). -/
  | resync
  /-- SOFT_RESET, code 0x7E (R177). -/
  | softReset
  /-- LINE_RETURNED_TO_MARK (R154). -/
  | lineReturnedToMark (chan : Fin 16)
  /-- RETURN_BYTE (R156): a byte ends on the return line with no framing error. -/
  | returnByte (chan : Fin 16) (byte : Byte)
  deriving DecidableEq, Repr

end Sys2Proof
end

