-- ==== Sys2Proof/Decode.lean ====
section
/-! DEFINITION. Decoding. spec/opcode_table.json gives no row any bits (every row's "fields" is empty and no row has "fixed"),
so no word of any length spells a command. The management commands have codes of their own, in the table of R171: the bytes
of a transaction are read as a command by that table. -/

namespace Sys2Proof

/-- The command that a word of `nbits` bits spells by the opcode table: none, since the table gives no row a word. -/
def decodeTableWord (_nbits _w : Nat) : Option Instr := none

/-! ### The codes of the management port (R170, R171) -/

/-- The number of argument bytes of a command code, none for an unknown code (R171, R170). -/
def argumentBytes (code : Byte) : Option Nat :=
  match code.toNat with
  | 0x01 => some 0
  | 0x02 => some 0
  | 0x03 => some 1
  | 0x04 => some 1
  | 0x05 => some 1
  | 0x10 => some 4
  | 0x11 => some 2
  | 0x20 => some 5
  | 0x21 => some 2
  | 0x22 => some 2
  | 0x30 => some 2
  | 0x31 => some 2
  | 0x32 => some 1
  | 0x40 => some 0
  | 0x7E => some 0
  | _ => none

/-- The command that the bytes received in a transaction make, by the Code and Argument bytes columns of R171: none while
argument bytes are missing. An unknown code is a command with no arguments (R170). `byteOnLine` is what SET_PARAM is told
of the return line, which no byte carries. -/
def commandOf (byteOnLine : Option Bool) : List Byte → Option Instr
  | [] => none
  | code :: args =>
    match code.toNat, args with
    | 0x01, [] => some .identify
    | 0x02, [] => some .readStatus
    | 0x03, [cls] => some (.readFault cls)
    | 0x04, [mask] => some (.clearEvents mask)
    | 0x05, [mask] => some (.setIrqMask mask)
    | 0x10, [number, chan, high, low] => some (.setParam number chan (high ++ low) byteOnLine)
    | 0x11, [number, chan] => some (.getParam number chan)
    | 0x20, [chan, tile, level, high, low] => some (.assign chan tile level (high ++ low))
    | 0x21, [chan, tile] => some (.unassign chan tile)
    | 0x22, [chan, tile] => some (.readTile chan tile)
    | 0x30, [high, low] => some (.startChannels (high ++ low))
    | 0x31, [high, low] => some (.stopChannels (high ++ low))
    | 0x32, [chan] => some (.readChannel chan)
    | 0x40, [] => some .resync
    | 0x7E, [] => some .softReset
    | _, [] => if argumentBytes code = none then some (.unknownCommand code) else none
    | _, _ => none

/-- A 16-bit field as two bytes, high byte first (00_scope.md section 3.3). -/
def bytes2 (x : BitVec 16) : List Byte := [x.extractLsb' 8 8, x.extractLsb' 0 8]

/-- The bytes of a management command, its code first (R171); none for a command of another kind. -/
def Instr.bytes : Instr → Option (List Byte)
  | .unknownCommand code => if argumentBytes code = none then some [code] else none
  | .identify => some [0x01]
  | .readStatus => some [0x02]
  | .readFault cls => some [0x03, cls]
  | .clearEvents mask => some [0x04, mask]
  | .setIrqMask mask => some [0x05, mask]
  | .setParam number chan value _ => some ([0x10, number, chan] ++ bytes2 value)
  | .getParam number chan => some [0x11, number, chan]
  | .assign chan tile level dest => some ([0x20, chan, tile, level] ++ bytes2 dest)
  | .unassign chan tile => some [0x21, chan, tile]
  | .readTile chan tile => some [0x22, chan, tile]
  | .startChannels mask => some ([0x30] ++ bytes2 mask)
  | .stopChannels mask => some ([0x31] ++ bytes2 mask)
  | .readChannel chan => some [0x32, chan]
  | .resync => some [0x40]
  | .softReset => some [0x7E]
  | .rstnFall => none
  | .rstnRise _ => none
  | .selftestCompletion _ => none
  | .controlRequest _ _ => none
  | .waitTimeout _ => none
  | .issue => none
  | .readCompletion _ _ => none
  | .writeCompletion => none
  | .memoryTimeout => none
  | .loanRequest => none
  | .loanGrant => none
  | .loanEnd => none
  | .loanWithdrawal => none
  | .refinPulse => none
  | .freeRunningSwitchPoint => none
  | .windowExpiry => none
  | .statusLost _ => none
  | .endpointStalled _ => none
  | .debtTick _ => none
  | .startingTimeout _ => none
  | .crosspointVisit => none
  | .nameChangeVisit => none
  | .messageEnd _ => none
  | .status _ _ => none
  | .framingError _ => none
  | .unknownType _ _ => none
  | .returnGapExpiry _ => none
  | .transactionBegin => none
  | .transactionEnd => none
  | .lineReturnedToMark _ => none
  | .returnByte _ _ => none

end Sys2Proof
end

