-- ==== Sys2Proof/Config.lean ====
section
/-! DEFINITION. What the implementation fixes: the identity codes, the sizes of the part's stores, the limits of its
counters and the ranges and defaults of its parameters. The spec leaves no value open, so there is no free value. -/

namespace Sys2Proof

/-- Vendor code (00_scope.md section 5). -/
def Config.vendor : Byte := 0x54

/-- Part code (00_scope.md section 5). -/
def Config.partCode : BitVec 16 := 0x7240

/-- Revision, also sent in HELLO (00_scope.md section 5, R155). -/
def Config.revision : Byte := 0x03

/-- Depth of a posted-write queue with POST = 1 (R27). -/
def Config.postedDepth : Nat := 8

/-- Accesses in flight at most (R37). -/
def Config.inflightMax : Nat := 4

/-- Words on the re-read list at most (R65). -/
def Config.rereadMax : Nat := 16

/-- Take records in the take queue at most (R102). -/
def Config.takeQueueMax : Nat := 4

/-- Digest snapshots a channel holds at most (R147). -/
def Config.snapshotMax : Nat := 4

/-- Channels (00_scope.md section 1.3). -/
def Config.channels : Nat := 16

/-- Tile slots of a channel (section 8.1). -/
def Config.tilesPerChannel : Nat := 64

/-- Where the part's 16-bit counters saturate (R75, R88, R106, R138, R139, R157). -/
def Config.countMax : Nat := 65535

/-- Where the starvation counter saturates (R47). -/
def Config.starvationMax : Nat := 255

/-- The digest's modulus (R146). -/
def Config.digestModulus : Nat := 65521

/-- HELLO messages a channel makes due before its start times out (R161). -/
def Config.helloMax : Nat := 8

/-- Missing STATUS messages in a row that make a channel LOST (R164). -/
def Config.missingMax : Nat := 4

/-- Held frames at which an endpoint is stalled (R164). -/
def Config.heldMax : Nat := 16

/-- The gap after which a partial STATUS is discarded, in µs (R156). -/
def Config.returnGap : Nat := 50

/-- The time of one byte on an endpoint link, in µs (R153). -/
def Config.byteTime : Nat := 5

/-- Default frame period P0, in µs (R85, R174). -/
def Config.defaultP0 : Nat := 20000

/-- The window half-width of a frame period: P0 div 128 (R85). -/
def Config.halfWidth (p0 : Nat) : Nat := p0 / 128

/-- Default of the per-channel options: PARKHI only (R174). -/
def Config.defaultOptions : BitVec 5 := 0x04

end Sys2Proof
end

