-- ==== Sys2Proof/Machine/State.lean ====
section
/-! DEFINITION. The state of the 7240 as plain data: every item the chapters give to a block, under the block that owns it
(00_scope.md section 1.3), the model's queue of waiting commands, and the state right after reset. Items that another
item fixes (the subscriber index, the fetch read in flight, the output pins) are views, in Machine/Ops.lean and
Machine/Flags.lean. -/

namespace Sys2Proof.Machine

/-- Why the part would stop. The 7240 never stops: its faults are records of the integrity unit, and every command answers
a next state. -/
inductive Fault where
  /-- Raised by no command (the spec gives every event an outcome); safe, since no run reaches it. -/
  | unreachable
  deriving DecidableEq, Repr

/-- Why a command has no meaning. -/
inductive Refusal where
  /-- Raised only by an arm of `exec` whose command is not modelled yet; safe, the run stops. No arm does so now. -/
  | notModelled (mnemonic : String)
  deriving DecidableEq, Repr

/-- Device state (R56). `inReset`: RSTN is low and the part holds no device state. -/
inductive Device where
  | inReset
  | selftest
  | operating
  | halted
  deriving DecidableEq, Repr

/-! ### The image -/

/-- A crosspoint entry (l, d) (R2). -/
structure Crosspoint where
  level : Nat
  dest : Nat
  deriving DecidableEq, Repr

/-- A tracked item: a crosspoint entry or a source name (R2). -/
inductive Entry where
  | crosspoint (e : Crosspoint)
  | source (s : Nat)
  deriving DecidableEq, Repr

/-- The tracked bits of a crosspoint word: source number and protect mark (R4). -/
structure Route where
  source : BitVec 11
  protect : Bool
  deriving DecidableEq, Repr

/-- A source name: its two words, four characters each, character k of a word in lane k (R5, R7). -/
structure Name where
  first : BitVec 32
  second : BitVec 32
  deriving DecidableEq, Repr

/-- A tracked value (R7, R95): UNKNOWN, the route of a crosspoint entry, or the eight characters of a name. -/
inductive Value where
  | unknown
  | route (r : Route)
  | name (n : Name)
  deriving DecidableEq, Repr

/-- A shadow entry: its quality, with the held value where the quality presents one (R6). -/
inductive Quality (α : Type) where
  | unknown
  | suspect
  | unverified (held : α)
  | verified (held : α)
  deriving DecidableEq, Repr

/-- The shadow image (R6): an entry for each crosspoint word and each name word, by the word's offset in its region. -/
structure Shadow where
  crosspoints : Table (Quality Route)
  names : Table (Quality (BitVec 32))
  deriving DecidableEq, Repr

/-! ### Control ports -/

/-- An accepted write: the data and check bits are those R25 decided, and `poisoned` says that the check bits are the
poison pattern. -/
structure WriteWord where
  addr : WordAddr
  lanes : Lanes
  data : BitVec 32
  check : BitVec 7
  poisoned : Bool
  deriving DecidableEq, Repr

/-- What an accepted request asks for (R21). -/
inductive PendingOp where
  | read (addr : WordAddr)
  | write (w : WriteWord)
  deriving DecidableEq, Repr

/-- Where a pending request stands: waiting, with the time its wait timer runs out, or issued, its timer stopped (R32). -/
inductive Wait where
  | waiting (deadline : Nat)
  | issued
  deriving DecidableEq, Repr

/-- A request taken and not yet answered (R22). -/
structure PendingRequest where
  op : PendingOp
  wait : Wait
  deriving DecidableEq, Repr

/-- The three answers of R21. -/
inductive Answer where
  | data (data : BitVec 32) (check : BitVec 7)
  | done
  | fail
  deriving DecidableEq, Repr

/-- A control port (02, opening table): pending request with its wait timer, posted-write queue oldest first, the
requests that stand presented on the processor's bus behind the pending one, in the order presented, and the answers given
since RSTN, oldest first, one to a request (R22). The answers are the model's record of what the port has said (log entry
16). -/
structure Port where
  pending : Option PendingRequest
  queue : List WriteWord
  presented : List Request
  answers : List Answer
  deriving DecidableEq, Repr

/-! ### Memory port, arbiter, loan, fetch engine -/

/-- The origin of an access in flight (R37). -/
inductive Requester where
  | port (p : PortId)
  | fetch
  deriving DecidableEq, Repr

/-- Which regions a word lies in (R37; both under R3). -/
inductive Region where
  | outside
  | crosspoint
  | name
  | both
  deriving DecidableEq, Repr

/-- The kind of an access in flight with the fields of its kind (R37). A read carries the tracker's stale mark (R8). -/
inductive AccessOp where
  | read (stale : Bool)
  | write (w : WriteWord) (posted : Bool)
  deriving DecidableEq, Repr

/-- An entry of the in-flight list (R37). -/
structure Access where
  origin : Requester
  op : AccessOp
  addr : WordAddr
  region : Region
  issueTime : Nat
  deadline : Nat
  deriving DecidableEq, Repr

/-- The memory port and the arbiter (R37, section 3.4): in-flight list oldest first, last granted port, starvation
counter. -/
structure MemPort where
  inflight : List Access
  lastGranted : PortId
  starvation : Nat
  deriving DecidableEq, Repr

/-- Loan state (section 3.5). -/
inductive Loan where
  | none
  | requested
  | granted
  deriving DecidableEq, Repr

/-- The region a sweep is passing through (R61). -/
inductive SweepRegion where
  | crosspoint
  | name
  deriving DecidableEq, Repr

/-- Sweep state, with the sweep position while RUNNING (section 4.4). -/
inductive Sweep where
  | idle
  | running (region : SweepRegion) (next : WordAddr)
  | ending
  deriving DecidableEq, Repr

/-- The fetch engine (section 4.4). -/
structure Fetch where
  sweep : Sweep
  reread : List WordAddr
  deriving DecidableEq, Repr

/-! ### Integrity unit -/

/-- The six fault classes (section 5.2). -/
inductive FaultClass where
  | corrected
  | access
  | channel
  | entry
  | image
  | halt
  deriving DecidableEq, Repr

/-- The fault kinds of R76. -/
inductive FaultKind where
  | writeCorrected
  | readCorrected
  | fetchCorrected
  | addressParity
  | readWaitTimeout
  | writeWaitTimeout
  | readMemoryTimeout
  | uncorrectableOutside
  | poisonedOutside
  | partialWithEcc
  | noPartner
  | statusLost
  | digestMismatch
  | endpointStalled
  | refreshOverrun
  | poisonedRegionWrite
  | regionWriteTimeout
  | uncorrectableRegion
  | contentMismatch
  | fetchTimeout
  | loanGranted
  | rereadOverflow
  | lateTake
  | selftestFailure
  | regionOverlap
  deriving DecidableEq, Repr

/-- The origin of a fault (R75). -/
inductive Origin where
  | portA
  | portB
  | fetch
  | channel
  | reference
  | selftest
  deriving DecidableEq, Repr

/-- The location of a fault (R75). -/
inductive Location where
  | absent
  | word (a : WordAddr)
  | channel (c : Nat)
  deriving DecidableEq, Repr

/-- A capture record (R75). -/
structure Capture where
  kind : FaultKind
  origin : Origin
  location : Location
  tag : BitVec 16
  deriving DecidableEq, Repr

/-- The three items of a fault class (R75). -/
structure ClassState where
  pending : Bool
  capture : Option Capture
  count : Nat
  deriving DecidableEq, Repr

/-! ### Frame reference, gather, fan-out -/

/-- Reference state (section 6.2). -/
inductive RefState where
  | absent
  | locked
  | flywheel
  deriving DecidableEq, Repr

/-- The frame reference unit (section 6.2). -/
structure FrameRef where
  state : RefState
  lastSwitch : Nat
  expected : Nat
  halfWidth : Nat
  latest : Option Nat
  candidates : List Nat
  noise : Nat
  count : BitVec 32
  deriving DecidableEq, Repr

/-- A take record (R100): its take number and its changes, each an entry with its new value. -/
structure TakeRecord where
  number : BitVec 32
  changes : List (Entry × Value)
  deriving DecidableEq, Repr

/-- The gather unit (R95): dirty list with values-at-open, take queue, late-take and bounced counts. -/
structure Gather where
  dirty : List (Entry × Value)
  takeQueue : List TakeRecord
  late : Nat
  bounced : Nat
  deriving DecidableEq, Repr

/-- The place of a working fan-out engine in the head record (R116): the item, counted from 0, and the slot last visited
for it, the (channel, tile) pair (c, t) written 64·c + t. -/
structure Fanout where
  item : Nat
  position : Option Nat
  deriving DecidableEq, Repr

/-! ### Channel units -/

/-- What a tile shows: the three kinds of R111. -/
inductive TileState where
  | unassigned
  | known (r : Route)
  | unknown
  deriving DecidableEq, Repr

/-- A tile record (R124). -/
structure Tile where
  assignment : Option Crosspoint
  current : TileState
  take : BitVec 32
  lastSent : TileState
  deriving DecidableEq, Repr

/-- A place in a notice queue: the tile and its label mark (R126). -/
structure Notice where
  tile : Nat
  label : Bool
  deriving DecidableEq, Repr

/-- A message on a transmit line (R128): its bytes and the time it ends. -/
structure Transmission where
  bytes : List Byte
  endsAt : Nat
  deriving DecidableEq, Repr

/-- A digest snapshot (R147). -/
structure Snapshot where
  tag : BitVec 16
  digest : Nat
  comparable : Bool
  deriving DecidableEq, Repr

/-- Channel state (section 11.5). -/
inductive ChannelState where
  | stopped
  | listening
  | starting
  | running
  | lost
  deriving DecidableEq, Repr

/-- The receiver (R156): idle, or assembling a STATUS, with the bytes so far and the time the last of them ended. -/
inductive Receiver where
  | idle
  | assembling (bytes : List Byte) (lastEnd : Nat)
  deriving DecidableEq, Repr

/-- The last STATUS record (R157). -/
structure StatusRecord where
  tag : BitVec 16
  digest : BitVec 16
  hold : Bool
  capacity : Byte
  deriving DecidableEq, Repr

/-- The tiles and notice queue, transmitter, refresh and digest, link state and parameters of one channel unit (R124 to
R138, R139, R156, R158, R174). `txInverted` is the polarity in force on the transmit line (R153). `rxWire` is the level of the
return line, set at the level that is mark with RXINV clear (R154). `startedAt` is the time at which a START CHANNELS took
the channel from LISTENING to STARTING, for R168 (log entry 25). -/
structure Channel where
  state : ChannelState
  tiles : Table Tile
  queue : List Notice
  slots : Nat
  tx : Option Transmission
  txInverted : Bool
  framePending : Option (BitVec 16)
  frameCount : Nat
  changeCount : Nat
  superseded : Nat
  droppedEqual : Nat
  ticks : Nat
  debt : Int
  forced : Bool
  cursor : Option Nat
  mismatch : Nat
  digest : Nat
  snapshots : List Snapshot
  refreshNotices : Nat
  refreshes : Nat
  staleCount : Nat
  startedAt : Option Nat
  helloCount : Nat
  helloPending : Bool
  heard : Bool
  missing : Nat
  hold : Bool
  heldFrames : Nat
  rx : Receiver
  rxWire : Bool
  lastStatus : Option StatusRecord
  statusCount : Nat
  returnErrors : Nat
  tc : Nat
  budget : Nat
  interval : Nat
  options : BitVec 5
  deriving DecidableEq, Repr

/-! ### Management port -/

/-- The transaction state of the management port (R169): idle, or a transaction with the bytes received so far, which once its
command has executed are that command's, and from then on its status byte and data still to be shifted out. -/
inductive Spi where
  | idle
  | transaction (received : List Byte) (reply : Option (List Byte))
  deriving DecidableEq, Repr

/-- The management port's own state (R169, R175). -/
structure Mgmt where
  spi : Spi
  reference : Bool
  sweep : Bool
  irqMask : Byte
  deriving DecidableEq, Repr

/-- The device parameters (R174). -/
structure Params where
  p0 : Nat
  ls : Nat
  tm : Nat
  ta : Nat
  deriving DecidableEq, Repr

/-! ### The whole part -/

structure State where
  device : Device
  straps : Straps
  loanReq : Bool
  now : Nat
  portA : Port
  portB : Port
  memPort : MemPort
  loan : Loan
  shadow : Shadow
  fetch : Fetch
  faults : Table ClassState
  frame : FrameRef
  gather : Gather
  fanout : Option Fanout
  chans : Table Channel
  params : Params
  mgmt : Mgmt
  pending : List Instr
  deriving DecidableEq, Repr

/-- A port after RSTN (02, opening table). -/
def Port.reset : Port := { pending := none, queue := [], presented := [], answers := [] }

/-- A tile record as RSTN rises (R138). -/
def Tile.reset : Tile := { assignment := none, current := .unassigned, take := 0, lastSent := .unassigned }

/-- A clear fault class (R81). -/
def ClassState.clear : ClassState := { pending := false, capture := none, count := 0 }

/-- A channel unit as RSTN rises with its return line at mark (R138, R139, R153, R154, R158, R174). -/
def Channel.reset : Channel where
  state := .stopped
  tiles := []
  queue := []
  slots := 0
  tx := none
  txInverted := false
  framePending := none
  frameCount := 0
  changeCount := 0
  superseded := 0
  droppedEqual := 0
  ticks := 0
  debt := 0
  forced := false
  cursor := none
  mismatch := 0
  digest := 0
  snapshots := []
  refreshNotices := 0
  refreshes := 0
  staleCount := 0
  startedAt := none
  helloCount := 0
  helloPending := false
  heard := false
  missing := 0
  hold := false
  heldFrames := 0
  rx := .idle
  rxWire := true
  lastStatus := none
  statusCount := 0
  returnErrors := 0
  tc := 64
  budget := 16
  interval := 100
  options := Config.defaultOptions

/-- The strap record before any RSTN rise has sampled the pins. DESIGN CHOICE (log entry 4), unsafe: the spec gives none,
and no rule reads it while RSTN is low. -/
def Straps.unsampled : Straps where
  xbase := 0
  nbase := 0
  dsel := 0
  lsel := 0
  ssel := 0
  post := false
  eccen := false
  aparen := false
  bist := false

/-- The part held in reset, RSTN low, every block at its After-RSTN values. DESIGN CHOICE (log entry 3): the spec's reset
has two moments, the fall and the rise of RSTN; the values are the same at both, and the straps are known only at the
rise, so the state right after reset is the one RSTN_RISE starts from. -/
def State.reset : State where
  device := .inReset
  straps := Straps.unsampled
  loanReq := false
  now := 0
  portA := Port.reset
  portB := Port.reset
  memPort := { inflight := [], lastGranted := .b, starvation := 0 }
  loan := .none
  shadow := { crosspoints := [], names := [] }
  fetch := { sweep := .idle, reread := [] }
  faults := []
  frame := { state := .absent, lastSwitch := 0, expected := Config.defaultP0,
             halfWidth := Config.halfWidth Config.defaultP0, latest := none, candidates := [], noise := 0, count := 0 }
  gather := { dirty := [], takeQueue := [], late := 0, bounced := 0 }
  fanout := none
  chans := []
  params := { p0 := Config.defaultP0, ls := 16, tm := 16, ta := 2000 }
  mgmt := { spi := .idle, reference := false, sweep := false, irqMask := 0 }
  pending := []

end Sys2Proof.Machine
end

