-- ==== Sys2Proof/Machine/Operands.lean ====
section
/-! DEFINITION. How the part reads its operands: region geometry, address parity, lane coverage, the check code, the fields
of return and management messages, and the parameter table. -/

namespace Sys2Proof

open Sys2Proof.Machine

/-! ### Region geometry (R1, R2, R3) -/

/-- D (R1). -/
def Straps.dests (p : Straps) : Nat :=
  match p.dsel.toNat with
  | 0 => 128
  | 1 => 256
  | 2 => 512
  | _ => 1024

/-- L (R1): 3 gives 4 levels, the same as 2. -/
def Straps.levels (p : Straps) : Nat :=
  match p.lsel.toNat with
  | 0 => 1
  | 1 => 2
  | _ => 4

/-- S (R1): 3 gives 2048 sources, the same as 2. -/
def Straps.sources (p : Straps) : Nat :=
  match p.ssel.toNat with
  | 0 => 512
  | 1 => 1024
  | _ => 2048

/-- Crosspoint region base (R1). -/
def Straps.xpBase (p : Straps) : Nat := p.xbase.toNat * 16384

/-- Name region base (R1). -/
def Straps.nameBase (p : Straps) : Nat := p.nbase.toNat * 16384

/-- Length of the crosspoint region in words (R1). -/
def Straps.xpLen (p : Straps) : Nat := p.dests * p.levels

/-- Length of the name region in words (R1). -/
def Straps.nameLen (p : Straps) : Nat := 2 * p.sources

/-- The offset of a word in the crosspoint region, if it lies there (R2). -/
def Straps.xpOffset (p : Straps) (a : WordAddr) : Option Nat :=
  if p.xpBase ≤ a.toNat ∧ a.toNat < p.xpBase + p.xpLen then some (a.toNat - p.xpBase) else none

/-- The offset of a word in the name region, if it lies there (R2). -/
def Straps.nameOffset (p : Straps) (a : WordAddr) : Option Nat :=
  if p.nameBase ≤ a.toNat ∧ a.toNat < p.nameBase + p.nameLen then some (a.toNat - p.nameBase) else none

/-- The crosspoint entry of an offset: level o div D, destination o mod D (R2). -/
def Straps.crosspointAt (p : Straps) (o : Nat) : Crosspoint := { level := o / p.dests, dest := o % p.dests }

/-- The offset of a crosspoint entry's word: l·D + d (R2). -/
def Straps.offsetOf (p : Straps) (e : Crosspoint) : Nat := e.level * p.dests + e.dest

/-- The region of a word, judged from its address (R37, R25). -/
def Straps.region (p : Straps) (a : WordAddr) : Region :=
  match p.xpOffset a, p.nameOffset a with
  | none, none => .outside
  | some _, none => .crosspoint
  | none, some _ => .name
  | some _, some _ => .both

/-- The regions overlap exactly when XBASE equals NBASE (R3). -/
def Straps.overlap (p : Straps) : Bool := p.xbase == p.nbase

/-- The entries a word belongs to, the crosspoint entry first (R2, R96). -/
def Straps.entriesAt (p : Straps) (a : WordAddr) : List Entry :=
  (match p.xpOffset a with
    | some o => [Entry.crosspoint (p.crosspointAt o)]
    | none => []) ++
  (match p.nameOffset a with
    | some o => [Entry.source (o / 2)]
    | none => [])

/-! ### Bits of a request (R21) -/

/-- The parity of a list of bits: true for an odd number of ones. -/
def oddOnes (bits : List Bool) : Bool := bits.foldl Bool.xor false

/-- The bits of a vector, bit 0 first. -/
def bitList {w : Nat} (x : BitVec w) : List Bool := (List.range w).map x.getLsbD

/-- A request's 28 bits hold an odd number of ones: the address, the kind (1 for a write), the lanes and the parity bit
(R21, R23). -/
def Request.parityOdd (r : Request) : Bool :=
  oddOnes (bitList r.addr ++ [r.write] ++ bitList r.lanes ++ [r.parity])

/-- A full write touches all four lanes (R21). -/
def fullLanes (l : Lanes) : Bool := l == 0xF#4

/-- A write covers a crosspoint word when its mask includes lanes 0 and 1 (R4). -/
def coversCrosspoint (l : Lanes) : Bool := l.getLsbD 0 && l.getLsbD 1

/-- A write touches a crosspoint word's tracked bits when its mask includes lane 0 or lane 1 (R4). -/
def touchesCrosspoint (l : Lanes) : Bool := l.getLsbD 0 || l.getLsbD 1

/-- A write covers a name word only when its mask holds all four lanes (R5). -/
def coversName (l : Lanes) : Bool := fullLanes l

/-- A write with at least one lane touches a name word's tracked bits (R5). -/
def touchesName (l : Lanes) : Bool := l != 0#4

/-- Two words lie in one 64-word block (00_scope.md section 3.2, R30). -/
def sameBlock (a b : WordAddr) : Bool := a.toNat / 64 == b.toNat / 64

/-- The tracked bits of a crosspoint word: source bits 0 to 10, protect bit 12 (R4). -/
def routeOf (data : BitVec 32) : Route := { source := data.extractLsb' 0 11, protect := data.getLsbD 12 }

/-- Written lanes laid over a held route (R11): lane 0 replaces source bits 0 to 7, lane 1 source bits 8 to 10 and
protect. -/
def mergeRoute (l : Lanes) (data : BitVec 32) (held : Route) : Route :=
  let low : BitVec 8 := if l.getLsbD 0 then data.extractLsb' 0 8 else held.source.extractLsb' 0 8
  let high : BitVec 3 := if l.getLsbD 1 then data.extractLsb' 8 3 else held.source.extractLsb' 8 3
  { source := high ++ low, protect := if l.getLsbD 1 then data.getLsbD 12 else held.protect }

/-- Byte lane k of a word: data bits 8k to 8k + 7 (00_scope.md section 3.2). -/
def laneByte (data : BitVec 32) (k : Nat) : Byte := data.extractLsb' (8 * k) 8

/-- Written lanes laid over a held name word (R11): each written lane replaces its character. -/
def mergeNameWord (l : Lanes) (data : BitVec 32) (held : BitVec 32) : BitVec 32 :=
  let pick (k : Nat) : Byte := if l.getLsbD k then laneByte data k else laneByte held k
  pick 3 ++ pick 2 ++ pick 1 ++ pick 0

/-! ### The check code (R70 to R74) -/

/-- The position of a data bit, by the table of R70. -/
def dataPosition (i : Nat) : Nat :=
  if i = 0 then 3 else if i ≤ 3 then i + 4 else if i ≤ 10 then i + 5 else if i ≤ 25 then i + 6 else i + 7

/-- Check bit ck, k = 0..5: the parity of the data bits in positions whose number has bit k set (R70). -/
def checkBit (data : BitVec 32) (k : Nat) : Bool :=
  oddOnes ((List.range 32).map fun i => (dataPosition i).testBit k && data.getLsbD i)

/-- The check bits c0 to c5 of a word, c0 as bit 0 (R70). -/
def lowCheckBits (data : BitVec 32) : BitVec 6 :=
  BitVec.ofBool (checkBit data 5) ++ BitVec.ofBool (checkBit data 4) ++ BitVec.ofBool (checkBit data 3) ++
    BitVec.ofBool (checkBit data 2) ++ BitVec.ofBool (checkBit data 1) ++ BitVec.ofBool (checkBit data 0)

/-- The seven check bits generated for a word: c6 makes all 39 bits even (R70). -/
def encodeCheck (data : BitVec 32) : BitVec 7 :=
  BitVec.ofBool (Bool.xor (oddOnes (bitList data)) (oddOnes (bitList (lowCheckBits data)))) ++ lowCheckBits data

/-- The syndrome of a received word, as a number 0..63: bit k is the parity of the received bits in positions whose number
has bit k set, the received ck (at position 2^k) included (R72). -/
def syndrome (data : BitVec 32) (check : BitVec 7) : Nat :=
  (lowCheckBits data ^^^ check.extractLsb' 0 6).toNat

/-- The overall parity of the 39 received bits is odd (R72). -/
def overallOdd (data : BitVec 32) (check : BitVec 7) : Bool :=
  Bool.xor (oddOnes (bitList data)) (oddOnes (bitList check))

/-- The three outcomes of a decode (R72). -/
inductive EccOutcome where
  | clean
  | corrected
  | uncorrectable
  deriving DecidableEq, Repr

/-- A word as a decode passes it on, with its outcome. -/
structure Decoded where
  outcome : EccOutcome
  data : BitVec 32
  check : BitVec 7
  deriving DecidableEq, Repr

/-- The data with the bit at a position inverted; as it stands where the position holds no data bit (R73). -/
def invertAt (data : BitVec 32) (position : Nat) : BitVec 32 :=
  match (List.range 32).find? fun i => dataPosition i == position with
  | some i => data ^^^ BitVec.twoPow 32 i
  | none => data

/-- The decode of a received word (R72, R73): a corrected word is passed on with fresh check bits, any other as
received. -/
def eccDecode (data : BitVec 32) (check : BitVec 7) : Decoded :=
  let syn := syndrome data check
  if overallOdd data check then
    if syn ≤ 38 then
      let fixed := invertAt data syn
      { outcome := .corrected, data := fixed, check := encodeCheck fixed }
    else { outcome := .uncorrectable, data, check }
  else if syn = 0 then { outcome := .clean, data, check }
  else { outcome := .uncorrectable, data, check }

/-- A decode where ECCEN asks for one; with ECCEN = 0 every word counts as clean, as it stands (R71). -/
def decodeWord (eccen : Bool) (data : BitVec 32) (check : BitVec 7) : Decoded :=
  if eccen then eccDecode data check else { outcome := .clean, data, check }

/-- The poison pattern of a word: its generated check bits with c0 and c1 inverted (R74). -/
def poisonCheck (data : BitVec 32) : BitVec 7 := encodeCheck data ^^^ 0x03#7

/-! ### Link messages (R155) -/

/-- The check byte: the sum of all bytes with it is 0 mod 256 (R155). -/
def checkByte (bytes : List Byte) : Byte := 0 - bytes.foldl (· + ·) 0

/-- A message completed with its check byte (R155). -/
def withCheck (bytes : List Byte) : List Byte := bytes ++ [checkByte bytes]

/-- A message's bytes sum to 0 mod 256 (R156). -/
def sumIsZero (bytes : List Byte) : Bool := bytes.foldl (· + ·) 0 == (0 : Byte)

/-- The high byte of a 16-bit field (multi-byte fields are sent high byte first, R155). -/
def highByte (x : BitVec 16) : Byte := x.extractLsb' 8 8

/-- The low byte of a 16-bit field. -/
def lowByte (x : BitVec 16) : Byte := x.extractLsb' 0 8

/-- HELLO: type, channel, Tc, revision, check (R155). -/
def helloMessage (chan tc : Nat) : List Byte :=
  withCheck [0xA1, BitVec.ofNat 8 chan, BitVec.ofNat 8 tc, Config.revision]

/-- FRAME: type, tag, check (R155). -/
def frameMessage (tag : BitVec 16) : List Byte := withCheck [0xA2, highByte tag, lowByte tag]

/-- The type byte of a STATUS message (R155). -/
def statusTypeByte : Byte := 0xB1

/-- The fields of a valid STATUS, its eight bytes given in order (R155, R157); flag bits 1 to 7 are ignored. -/
def parseStatus : List Byte → Option StatusRecord
  | [_, tagH, tagL, digH, digL, flags, capacity, _] =>
    some { tag := tagH ++ tagL, digest := digH ++ digL, hold := flags.getLsbD 0, capacity }
  | _ => none

/-- The eight bytes of a STATUS operand, in the order they are received. -/
def StatusBytes.toList (m : StatusBytes) : List Byte :=
  [m.kind, m.tagHigh, m.tagLow, m.digestHigh, m.digestLow, m.flags, m.capacity, m.check]

/-- The ten bits of a byte on a link line, true for mark: a start bit at space, the data bits with bit 0 first, a stop bit at
mark (R153, R154). -/
def lineBits (b : Byte) : List Bool := [false] ++ bitList b ++ [true]

/-! ### Management fields (R169, R171, R174) -/

/-- A value as three bytes, high byte first. -/
def bytes3 (x : BitVec 24) : List Byte := [x.extractLsb' 16 8, x.extractLsb' 8 8, x.extractLsb' 0 8]

/-- A value as four bytes, high byte first. -/
def bytes4 (x : BitVec 32) : List Byte :=
  [x.extractLsb' 24 8, x.extractLsb' 16 8, x.extractLsb' 8 8, x.extractLsb' 0 8]

/-- A number as one byte. -/
def byteOf (n : Nat) : Byte := BitVec.ofNat 8 n

/-- A number as two bytes. -/
def bytes2Of (n : Nat) : List Byte := bytes2 (BitVec.ofNat 16 n)

/-- A flag in a byte of its own (section 12.3). -/
def flagByte (b : Bool) : Byte := if b then 1 else 0

/-- An absent location or position (section 12.3). -/
def absent3 : List Byte := [0xFF, 0xFF, 0xFF]

/-- The status codes of section 12.2. -/
def statusDone : Byte := 0x00
def statusClamped : Byte := 0x01
def statusRange : Byte := 0x02
def statusState : Byte := 0x03
def statusCode : Byte := 0x04

/-- The parameters of the table of R174. -/
inductive Param where
  | p0
  | ls
  | tm
  | ta
  | tc
  | budget
  | interval
  | options
  deriving DecidableEq, Repr

/-- The parameter of a number (R174). -/
def paramOf (number : Byte) : Option Param :=
  match number.toNat with
  | 0 => some .p0
  | 1 => some .ls
  | 2 => some .tm
  | 3 => some .ta
  | 16 => some .tc
  | 17 => some .budget
  | 18 => some .interval
  | 19 => some .options
  | _ => none

/-- The scope of a parameter (R174). -/
def Param.perChannel : Param → Bool
  | .p0 => false
  | .ls => false
  | .tm => false
  | .ta => false
  | .tc => true
  | .budget => true
  | .interval => true
  | .options => true

/-- The least value of a parameter (R174); the options value has no range. -/
def Param.low : Param → Nat
  | .p0 => 10000
  | .ls => 0
  | .tm => 1
  | .ta => 10
  | .tc => 1
  | .budget => 1
  | .interval => 8
  | .options => 0

/-- The greatest value of a parameter (R174). -/
def Param.high : Param → Nat
  | .p0 => 50000
  | .ls => 255
  | .tm => 255
  | .ta => 65535
  | .tc => 64
  | .budget => 64
  | .interval => 1024
  | .options => 65535

/-- A value moved to the nearer limit of its range (R174). -/
def Param.clamp (p : Param) (v : Nat) : Nat := min (max v p.low) p.high

end Sys2Proof
end

