-- ==== Sys2Proof/Machine/Table.lean ====
section
/-! DEFINITION. The operations on tables. A table in canonical form lists its keys strictly rising and lists no key with the
default value, so equal stores are equal data; an unlisted key holds the default. -/

namespace Sys2Proof

/-- The value at a key: the default `d` for a key that is not listed. -/
def Table.get {α : Type} (d : α) : Table α → Nat → α
  | [], _ => d
  | (j, v) :: t, k => if j = k then v else Table.get d t k

/-- A value put before the first key above its own. -/
def Table.insertSorted {α : Type} (k : Nat) (v : α) : Table α → Table α
  | [] => [(k, v)]
  | (j, w) :: t => if k < j then (k, v) :: (j, w) :: t else (j, w) :: Table.insertSorted k v t

/-- The table with the value `v` at key `k`. Writing the default removes the key. -/
def Table.set {α : Type} [DecidableEq α] (d : α) (t : Table α) (k : Nat) (v : α) : Table α :=
  let rest := t.filter (fun p => p.1 != k)
  if v = d then rest else Table.insertSorted k v rest

/-- The table of the keys below `n` whose value at each key `k` is `f k`. -/
def Table.tabulate {α : Type} [DecidableEq α] (d : α) (n : Nat) (f : Nat → α) : Table α :=
  (List.range n).filterMap fun k => if f k = d then none else some (k, f k)

/-- The canonical form: keys strictly rising, no key at the default. -/
abbrev Table.wf {α : Type} (d : α) (t : Table α) : Prop :=
  t.Pairwise (fun p q => p.1 < q.1) ∧ ∀ p ∈ t, p.2 ≠ d

end Sys2Proof
end

