-- ==== Sys2Proof/Machine/Ops.lean ====
section
/-! DEFINITION. The operations the commands share: access to the parts of State, fault records, the shadow with its change
reports and on-air values, the fetch engine's lists, answers of the ports, and the loan grant. -/

namespace Sys2Proof.Machine

/-! ### Access to the parts of State -/

/-- RSTN is high: the part is in a device state (R56). -/
def State.up (s : State) : Bool := s.device != .inReset

/-- The image tracker is live in OPERATING and HALTED (R8). -/
def State.live (s : State) : Bool := s.device == .operating || s.device == .halted

/-- The frame tag: the low 16 bits of F (R91). -/
def State.tag (s : State) : BitVec 16 := s.frame.count.extractLsb' 0 16

/-- A control port. -/
def State.port (s : State) : PortId → Port
  | .a => s.portA
  | .b => s.portB

/-- A control port replaced. -/
def State.setPort (s : State) (p : PortId) (x : Port) : State :=
  match p with
  | .a => { s with portA := x }
  | .b => { s with portB := x }

/-- A channel unit. -/
def State.chan (s : State) (c : Nat) : Channel := Table.get Channel.reset s.chans c

/-- A channel unit replaced. -/
def State.setChan (s : State) (c : Nat) (ch : Channel) : State :=
  { s with chans := Table.set Channel.reset s.chans c ch }

/-- Every channel unit replaced by a function of its number and itself. -/
def State.mapChans (s : State) (f : Nat → Channel → Channel) : State :=
  { s with chans := Table.tabulate Channel.reset Config.channels fun c => f c (s.chan c) }

/-- A tile record of a channel unit (R124). -/
def Channel.tile (ch : Channel) (t : Nat) : Tile := Table.get Tile.reset ch.tiles t

/-- A tile record replaced. -/
def Channel.setTile (ch : Channel) (t : Nat) (x : Tile) : Channel :=
  { ch with tiles := Table.set Tile.reset ch.tiles t x }

/-- Every tile record of a channel unit replaced by a function of itself. -/
def Channel.mapTiles (ch : Channel) (f : Tile → Tile) : Channel :=
  { ch with tiles := Table.tabulate Tile.reset Config.tilesPerChannel fun t => f (ch.tile t) }

/-- A 16-bit counter adds 1, saturating at 65,535. -/
def bump (n : Nat) : Nat := min (n + 1) Config.countMax

/-! ### Integrity unit (R75 to R77) -/

/-- The class of a fault kind (R76). -/
def FaultKind.cls : FaultKind → FaultClass
  | .writeCorrected => .corrected
  | .readCorrected => .corrected
  | .fetchCorrected => .corrected
  | .addressParity => .access
  | .readWaitTimeout => .access
  | .writeWaitTimeout => .access
  | .readMemoryTimeout => .access
  | .uncorrectableOutside => .access
  | .poisonedOutside => .access
  | .partialWithEcc => .access
  | .noPartner => .channel
  | .statusLost => .channel
  | .digestMismatch => .channel
  | .endpointStalled => .channel
  | .refreshOverrun => .channel
  | .poisonedRegionWrite => .entry
  | .regionWriteTimeout => .entry
  | .uncorrectableRegion => .entry
  | .contentMismatch => .entry
  | .fetchTimeout => .entry
  | .loanGranted => .image
  | .rereadOverflow => .image
  | .lateTake => .image
  | .selftestFailure => .halt
  | .regionOverlap => .halt

/-- The kind code of a fault (R76). -/
def FaultKind.code : FaultKind → Byte
  | .writeCorrected => 0x01
  | .readCorrected => 0x02
  | .fetchCorrected => 0x03
  | .addressParity => 0x10
  | .readWaitTimeout => 0x11
  | .writeWaitTimeout => 0x12
  | .readMemoryTimeout => 0x13
  | .uncorrectableOutside => 0x14
  | .poisonedOutside => 0x15
  | .partialWithEcc => 0x16
  | .noPartner => 0x20
  | .statusLost => 0x21
  | .digestMismatch => 0x22
  | .endpointStalled => 0x23
  | .refreshOverrun => 0x24
  | .poisonedRegionWrite => 0x30
  | .regionWriteTimeout => 0x31
  | .uncorrectableRegion => 0x32
  | .contentMismatch => 0x33
  | .fetchTimeout => 0x34
  | .loanGranted => 0x40
  | .rereadOverflow => 0x41
  | .lateTake => 0x42
  | .selftestFailure => 0x50
  | .regionOverlap => 0x51

/-- The number of a fault class, which is its event bit (section 5.2). -/
def FaultClass.number : FaultClass → Nat
  | .corrected => 0
  | .access => 1
  | .channel => 2
  | .entry => 3
  | .image => 4
  | .halt => 5

/-- The state of the class with a number. -/
def State.classState (s : State) (n : Nat) : ClassState := Table.get ClassState.clear s.faults n

/-- One fault recorded in its class (R77): the counter adds 1, an absent capture is filled, the pending bit is set. -/
def ClassState.record (st : ClassState) (c : Capture) : ClassState :=
  { pending := true, capture := some (st.capture.getD c), count := bump st.count }

/-- A fault report recorded in its class, with the frame tag current at the record (R77, R78). -/
def State.recordFault (s : State) (kind : FaultKind) (origin : Origin) (location : Location) : State :=
  let n := kind.cls.number
  let c : Capture := { kind, origin, location, tag := s.tag }
  { s with faults := Table.set ClassState.clear s.faults n ((s.classState n).record c) }

/-- The origin recorded for a control port (R75). -/
def portOrigin : PortId → Origin
  | .a => .portA
  | .b => .portB

/-- The origin recorded for the requester of an access (R44). -/
def Requester.origin : Requester → Origin
  | .port p => portOrigin p
  | .fetch => .fetch

/-! ### Shadow, tracked values, change reports (R6 to R20, R96, R98) -/

/-- The held value a quality presents (R6). -/
def Quality.presented {α : Type} : Quality α → Option α
  | .unknown => none
  | .suspect => none
  | .unverified v => some v
  | .verified v => some v

/-- The shadow entry of a crosspoint word, by its offset. -/
def State.crosspointQuality (s : State) (o : Nat) : Quality Route := Table.get .unknown s.shadow.crosspoints o

/-- The shadow entry of a name word, by its offset. -/
def State.nameQuality (s : State) (o : Nat) : Quality (BitVec 32) := Table.get .unknown s.shadow.names o

/-- The tracked value of an entry (R7). -/
def State.tracked (s : State) : Entry → Value
  | .crosspoint e =>
    match (s.crosspointQuality (s.straps.offsetOf e)).presented with
    | some r => .route r
    | none => .unknown
  | .source n =>
    match (s.nameQuality (2 * n)).presented, (s.nameQuality (2 * n + 1)).presented with
    | some x, some y => .name { first := x, second := y }
    | _, _ => .unknown

/-- The value-at-open of an entry in a dirty list, if it is there (R95). -/
def dirtyValue : List (Entry × Value) → Entry → Option Value
  | [], _ => none
  | (e, v) :: rest, x => if e = x then some v else dirtyValue rest x

/-- The on-air value of an entry (R20, R98). -/
def State.onAir (s : State) (e : Entry) : Value := (dirtyValue s.gather.dirty e).getD (s.tracked e)

/-- A change report reaching the gather unit, with the before value (R96). -/
def State.report (s : State) (e : Entry) (before : Value) : State :=
  match dirtyValue s.gather.dirty e with
  | some _ => s
  | none => { s with gather := { s.gather with dirty := s.gather.dirty ++ [(e, before)] } }

/-- The reports of one event on one word: an entry whose tracked value in `s` differs from the one in `old` is reported,
the crosspoint entry first (R19, R96). -/
def State.reportChanges (s : State) (old : State) (a : WordAddr) : State :=
  (s.straps.entriesAt a).foldl
    (fun acc e => if s.tracked e = old.tracked e then acc else acc.report e (old.tracked e)) s

/-- A word's shadow entries changed, each by its own function (R3: a word in both regions has two). -/
def Shadow.update (sh : Shadow) (p : Straps) (a : WordAddr) (onRoute : Quality Route → Quality Route)
    (onName : Quality (BitVec 32) → Quality (BitVec 32)) : Shadow where
  crosspoints :=
    match p.xpOffset a with
    | some o => Table.set .unknown sh.crosspoints o (onRoute (Table.get .unknown sh.crosspoints o))
    | none => sh.crosspoints
  names :=
    match p.nameOffset a with
    | some o => Table.set .unknown sh.names o (onName (Table.get .unknown sh.names o))
    | none => sh.names

/-- An event of the image tracker on one word: while the tracker is live the word's entries change and each change of a
tracked value is reported (R8, R19). -/
def State.actOnWord (s : State) (a : WordAddr) (onRoute : Quality Route → Quality Route)
    (onName : Quality (BitVec 32) → Quality (BitVec 32)) : State :=
  if s.live then
    ({ s with shadow := s.shadow.update s.straps a onRoute onName }).reportChanges s a
  else s

/-- A word's entries satisfy a test: either of them, for a word in both regions. -/
def State.anyQuality (s : State) (a : WordAddr) (onRoute : Quality Route → Bool)
    (onName : Quality (BitVec 32) → Bool) : Bool :=
  (match s.straps.xpOffset a with
    | some o => onRoute (s.crosspointQuality o)
    | none => false) ||
  (match s.straps.nameOffset a with
    | some o => onName (s.nameQuality o)
    | none => false)

/-- VERIFIED becomes UNVERIFIED, its held value kept (R17). -/
def Quality.downgrade {α : Type} : Quality α → Quality α
  | .verified v => .unverified v
  | .unknown => .unknown
  | .suspect => .suspect
  | .unverified v => .unverified v

/-- The downgrade of every shadow entry (R17). -/
def Shadow.downgrade (sh : Shadow) : Shadow where
  crosspoints := sh.crosspoints.map fun p => (p.1, p.2.downgrade)
  names := sh.names.map fun p => (p.1, p.2.downgrade)

/-! ### Fetch engine (R60 to R66) -/

/-- The first word of a sweep (R61, R62). -/
def firstSweep (p : Straps) : Sweep := .running .crosspoint (BitVec.ofNat 22 p.xpBase)

/-- The sweep starts or restarts at its first word; in SELFTEST it stays IDLE (R62). -/
def State.restartSweep (s : State) : State :=
  if s.live then { s with fetch := { s.fetch with sweep := firstSweep s.straps } } else s

/-- The sweep after the read of a word: the next word of the pass, the name pass after the last crosspoint word, ENDING
after the last name word (R61). -/
def sweepAfter (p : Straps) (region : SweepRegion) (a : WordAddr) : Sweep :=
  match region with
  | .crosspoint =>
    if a.toNat + 1 < p.xpBase + p.xpLen then .running .crosspoint (a + 1)
    else .running .name (BitVec.ofNat 22 p.nameBase)
  | .name => if a.toNat + 1 < p.nameBase + p.nameLen then .running .name (a + 1) else .ending

/-- A word added to the re-read list (R65). A word on the list keeps its place; a seventeenth word overflows it (R66). -/
def State.addReread (s : State) (a : WordAddr) : State :=
  if a ∈ s.fetch.reread then s
  else if s.fetch.reread.length < Config.rereadMax then
    { s with fetch := { s.fetch with reread := s.fetch.reread ++ [a] } }
  else
    (({ s with fetch := { s.fetch with reread := [] } }).recordFault .rereadOverflow .fetch (.word a)).restartSweep

/-- A fetch read is in flight (section 4.4; the engine has at most one, R60). -/
def State.fetchBusy (s : State) : Bool := s.memPort.inflight.any fun e => e.origin == .fetch

/-- The fetch engine's waiting read: the head of the re-read list, else the sweep position (R60). -/
def State.fetchWaiting (s : State) : Option WordAddr :=
  if s.live && !s.fetchBusy then
    match s.fetch.reread, s.fetch.sweep with
    | a :: _, _ => some a
    | [], .running _ a => some a
    | [], _ => none
  else none

/-- The waiting fetch read leaves its place at its issue (R60, R61). -/
def State.takeFetchRead (s : State) : State :=
  match s.fetch.reread, s.fetch.sweep with
  | _ :: rest, _ => { s with fetch := { s.fetch with reread := rest } }
  | [], .running region a => { s with fetch := { s.fetch with sweep := sweepAfter s.straps region a } }
  | [], _ => s

/-- A fetch read is finished: a sweep that was ENDING becomes IDLE and the SWEEP event is pending (R64). -/
def State.finishFetch (s : State) : State :=
  match s.fetch.sweep with
  | .ending => { s with fetch := { s.fetch with sweep := .idle }, mgmt := { s.mgmt with sweep := true } }
  | _ => s

/-! ### Ports -/

/-- A port answers its pending request, and holds none until it takes its next (R22). -/
def State.answerPort (s : State) (p : PortId) (a : Answer) : State :=
  s.setPort p { s.port p with pending := none, answers := (s.port p).answers ++ [a] }

/-- What a port offers the arbiter (R31). -/
inductive Candidate where
  | pendingRequest
  | queueHead
  deriving DecidableEq, Repr

/-- The word address an accepted request names. -/
def PendingOp.addr : PendingOp → WordAddr
  | .read a => a
  | .write w => w.addr

/-- The candidate of a port, by the tables of R31. -/
def Port.candidate (posting : Bool) (pt : Port) : Option Candidate :=
  let head : Option Candidate := if pt.queue.isEmpty then none else some .queueHead
  match pt.pending with
  | none => if posting then head else none
  | some r =>
    match r.wait with
    | .issued => if posting then head else none
    | .waiting _ =>
      if posting then
        match r.op with
        | .write _ => head
        | .read a =>
          if pt.queue.any (fun w => sameBlock w.addr a) || Config.postedDepth ≤ pt.queue.length then head
          else some .pendingRequest
      else some .pendingRequest

/-! ### Loan grant (R50) -/

/-- The location recorded for a loan grant: the sweep position, or absent (R76). -/
def Sweep.location : Sweep → Location
  | .running _ a => .word a
  | .idle => .absent
  | .ending => .absent

/-- The loan is granted: the downgrade of R17 and IMAGE 0x40 (R50). LOANACK and the undriven memory lines are the state
GRANTED itself. -/
def State.grantLoan (s : State) : State :=
  ({ s with loan := .granted, shadow := s.shadow.downgrade }).recordFault .loanGranted .fetch
    s.fetch.sweep.location

/-- The in-flight list has become empty in REQUESTED: the loan is granted in the same event (R50). -/
def State.grantIfDrained (s : State) : State :=
  if s.loan = .requested ∧ s.memPort.inflight = [] then s.grantLoan else s

end Sys2Proof.Machine
end

