-- ==== Sys2Proof/Machine/ChannelOps.lean ====
section
/-! DEFINITION. The operations of one channel unit: tile words and the digest, messages and the transmitter, the notice queue,
the slot decision with its refresh, the channel's part of a switch point, the return receiver, and the stop effects. They
act on a Channel alone; the State versions at the end add what a channel asks of the rest of the part. -/

namespace Sys2Proof.Machine

/-! ### Options (R174) -/

def Channel.txinv (ch : Channel) : Bool := ch.options.getLsbD 0
def Channel.rxinv (ch : Channel) : Bool := ch.options.getLsbD 1
def Channel.parkhi (ch : Channel) : Bool := ch.options.getLsbD 2
def Channel.watch (ch : Channel) : Bool := ch.options.getLsbD 3
def Channel.pullin (ch : Channel) : Bool := ch.options.getLsbD 4

/-! ### Tile words and the digest (R111, R125, R146) -/

/-- The tile word of a state (R111, R125). -/
def TileState.word : TileState → Nat
  | .unassigned => 0
  | .known r => 1 + r.source.toNat + (if r.protect then 2048 else 0)
  | .unknown => 4097

/-- The state a tile takes from a tracked value of its crosspoint entry (R111). -/
def Value.tileState : Value → TileState
  | .route r => .known r
  | .unknown => .unknown
  | .name _ => .unknown

/-- The digest after tile t's last-sent word moves from w to w' (R146). -/
def digestMove (d t w w' : Nat) : Nat :=
  (d + (t + 1) * w' + Config.digestModulus - ((t + 1) * w) % Config.digestModulus) % Config.digestModulus

/-- The sum of R146 over the last-sent words of a channel. -/
def Channel.digestSum (ch : Channel) : Nat :=
  ((List.range Config.tilesPerChannel).map fun t => (t + 1) * (ch.tile t).lastSent.word).sum % Config.digestModulus

/-! ### Messages (R128, R129, R133, R155, R161) -/

/-- The receiver waits for mark: the return line, as the part takes it with RXINV, is at space (R154). -/
def Channel.rxAwaitMark (ch : Channel) : Bool := ch.rxWire == ch.rxinv

/-- A message begins: it is on the line for 5 µs a byte, and a change of TXINV made before it acts from now on (R128,
R153). -/
def Channel.beginMessage (ch : Channel) (now : Nat) (bytes : List Byte) : Channel :=
  { ch with tx := some { bytes, endsAt := now + Config.byteTime * bytes.length }, txInverted := ch.txinv }

/-- A snapshot joins the channel's last four (R147). -/
def pushSnapshot (l : List Snapshot) (x : Snapshot) : List Snapshot :=
  (if Config.snapshotMax ≤ l.length then l.drop 1 else l) ++ [x]

/-- A FRAME mark begins: slot count, digest snapshot, FRAME count (R129, R130, R147). -/
def Channel.beginFrame (ch : Channel) (now : Nat) (tag : BitVec 16) : Channel :=
  let snap : Snapshot :=
    { tag, digest := ch.digest, comparable := ch.state == .running && !ch.forced }
  { ch.beginMessage now (frameMessage tag) with
    framePending := none
    slots := ch.budget
    snapshots := pushSnapshot ch.snapshots snap
    frameCount := bump ch.frameCount }

/-- A FRAME mark becomes due: it begins if the transmitter is free, and is pending otherwise, replacing the tag of one
pending already (R129). -/
def Channel.frameDue (ch : Channel) (now : Nat) (tag : BitVec 16) : Channel :=
  match ch.tx with
  | none => ch.beginFrame now tag
  | some _ => { ch with framePending := some tag }

/-- A HELLO begins, with the channel's number and its Tc now (R161). -/
def Channel.beginHello (ch : Channel) (c now : Nat) : Channel :=
  { ch.beginMessage now (helloMessage c ch.tc) with helloPending := false }

/-- A HELLO becomes due: it begins if the transmitter is free, and is pending otherwise (R161). -/
def Channel.helloDue (ch : Channel) (c now : Nat) : Channel :=
  match ch.tx with
  | none => ch.beginHello c now
  | some _ => { ch with helloPending := true }

/-- The flags of a NOTICE (R133, R155): bit 0 protect, bit 1 unknown, bit 2 unassigned, bit 3 refresh. -/
def noticeFlags (st : TileState) (refresh : Bool) : Byte :=
  (match st with
    | .unassigned => (0x04 : Byte)
    | .unknown => 0x02
    | .known r => if r.protect then 0x01 else 0x00) ||| (if refresh then 0x08 else 0x00)

/-- The source field of a NOTICE (R133). -/
def noticeSource : TileState → BitVec 16
  | .known r => r.source.setWidth 16
  | .unassigned => 0
  | .unknown => 0

/-- NOTICE: type, tile, flags, source, take tag, label, check (R133, R155). -/
def noticeMessage (t : Nat) (x : Tile) (refresh : Bool) (label : List Byte) : List Byte :=
  withCheck ([0xA3, byteOf t, noticeFlags x.current refresh] ++ bytes2 (noticeSource x.current) ++
    bytes2 (x.take.extractLsb' 0 16) ++ label)

/-- A NOTICE for tile t begins: its fields are taken from the tile record and the label, last-sent becomes current, the
digest moves, the slot count falls (R133). -/
def Channel.beginNotice (ch : Channel) (label : TileState → List Byte) (now t : Nat) (refresh : Bool) : Channel :=
  let x := ch.tile t
  let sent := (ch.beginMessage now (noticeMessage t x refresh (label x.current))).setTile t { x with lastSent := x.current }
  { sent with
    digest := digestMove ch.digest t x.lastSent.word x.current.word
    slots := ch.slots - 1 }

/-! ### The notice queue (R126, R132) -/

/-- A tile is in the notice queue. -/
def Channel.queued (ch : Channel) (t : Nat) : Bool := ch.queue.any fun n => n.tile == t

/-- A tile's place with its label mark set where the append asks for it. -/
def markLabel (q : List Notice) (t : Nat) (label : Bool) : List Notice :=
  q.map fun n => if n.tile = t then { n with label := n.label || label } else n

/-- A tile appended to the notice queue, or kept at its place with the superseded count adding 1 (R126). -/
def Channel.append (ch : Channel) (t : Nat) (label : Bool) : Channel :=
  if ch.queued t then
    { ch with queue := markLabel ch.queue t label, superseded := bump ch.superseded }
  else { ch with queue := ch.queue ++ [{ tile := t, label }] }

/-! ### Refresh (R139 to R145) -/

/-- A cause other than debt forces a refresh; one in progress returns to cursor 0 (R141). -/
def Channel.force (ch : Channel) : Channel :=
  { ch with forced := true, cursor := ch.cursor.map fun _ => 0 }

/-- One switch point counted in RUNNING, with the debt tick it may make (R140); the debt reaching +8 forces a refresh,
which keeps its cursor (R141). -/
def Channel.countTick (ch : Channel) : Channel × List FaultKind :=
  if ch.interval ≤ ch.ticks + 1 then
    if ch.debt < 8 then
      ({ ch with ticks := 0, debt := ch.debt + 1, forced := ch.forced || decide (ch.debt + 1 = 8) }, [])
    else ({ ch with ticks := 0 }, [.refreshOverrun])
  else ({ ch with ticks := ch.ticks + 1 }, [])

/-- The first tile from the cursor up to Tc − 1 that is assigned and not queued (R144). -/
def Channel.refreshTarget (ch : Channel) (cursor : Nat) : Option Nat :=
  (List.range ch.tc).find? fun t =>
    decide (cursor ≤ t) && (ch.tile t).assignment.isSome && !ch.queued t

/-- A refresh completes (R145). -/
def Channel.completeRefresh (ch : Channel) : Channel :=
  { ch with
    debt := if -8 < ch.debt then ch.debt - 1 else ch.debt
    forced := false
    cursor := none
    refreshes := bump ch.refreshes }

/-- The outcome of the slot precedence (R142). -/
inductive SlotChoice where
  | refresh (cursor : Nat)
  | change
  | unused
  deriving DecidableEq, Repr

/-- The slot precedence (R142, R143). -/
def Channel.slotChoice (ch : Channel) : SlotChoice :=
  if ch.forced then .refresh (ch.cursor.getD 0)
  else if !ch.queue.isEmpty then .change
  else
    match ch.cursor with
    | some k => .refresh k
    | none =>
      if 1 ≤ ch.debt ∨ (ch.pullin = true ∧ -8 < ch.debt) then .refresh 0 else .unused

/-- A refresh NOTICE for tile t begins (R144). -/
def Channel.sendRefresh (ch : Channel) (label : TileState → List Byte) (now t : Nat) : Channel :=
  { ch.beginNotice label now t true with cursor := some (t + 1), refreshNotices := bump ch.refreshNotices }

/-- The change NOTICE for the head of the queue begins (R133). -/
def Channel.sendChange (ch : Channel) (label : TileState → List Byte) (now t : Nat) (rest : List Notice) : Channel :=
  { ch.beginNotice label now t false with queue := rest, changeCount := bump ch.changeCount }

/-- The slot decision's rounds (R131, R132, R142, R145): a dropped head and a completed refresh take the decision again.
`fuel` bounds the rounds; `Channel.slotDecision` gives enough. -/
def Channel.decideRounds (label : TileState → List Byte) (now : Nat) : Nat → Channel → Channel
  | 0, ch => ch
  | fuel + 1, ch =>
    match ch.slotChoice with
    | .unused => ch
    | .refresh k =>
      match ch.refreshTarget k with
      | some t => ch.sendRefresh label now t
      | none => Channel.decideRounds label now fuel ch.completeRefresh
    | .change =>
      match ch.queue with
      | [] => ch
      | n :: rest =>
        if (ch.tile n.tile).current = (ch.tile n.tile).lastSent ∧ n.label = false then
          Channel.decideRounds label now fuel { ch with queue := rest, droppedEqual := bump ch.droppedEqual }
        else ch.sendChange label now n.tile rest

/-- A slot decision may be taken (R131). -/
def Channel.canDecide (ch : Channel) : Bool :=
  ch.state == .running && !ch.hold && ch.tx.isNone && ch.framePending.isNone && decide (1 ≤ ch.slots)

/-- Rounds enough for a decision: each queued tile is dropped at most once, and each completed refresh lowers the debt, but
for at most one at −8. -/
def Channel.decideFuel (ch : Channel) : Nat := ch.queue.length + (ch.debt + 8).toNat + 2

/-- The slot decision taken at an event that leaves its conditions true, and nothing otherwise (R131). -/
def Channel.slotDecision (ch : Channel) (label : TileState → List Byte) (now : Nat) : Channel :=
  if ch.canDecide then Channel.decideRounds label now ch.decideFuel ch else ch

/-! ### Stop effects (R137, R139, R158) -/

/-- The state a channel rests in (R158). -/
def Channel.restState (ch : Channel) : ChannelState := if ch.watch then .listening else .stopped

/-- The stop effects: for tiles, queue and transmitter those of R137, for refresh and digest those of R139, for the link
those of R158. Counters, last STATUS record, receiver, parameters and a message on the line stay. -/
def Channel.stopEffects (ch : Channel) : Channel :=
  { ch.mapTiles (fun x => { x with lastSent := .unassigned }) with
    state := ch.restState
    queue := []
    slots := 0
    framePending := none
    ticks := 0
    debt := 0
    forced := false
    cursor := none
    mismatch := 0
    digest := 0
    snapshots := []
    helloCount := 0
    helloPending := false
    heard := false
    missing := 0
    hold := false
    heldFrames := 0 }

/-! ### The channel's part of a switch point (R161, R164, R165) -/

/-- The missing count reaches 4 at this switch point (R164 step 1). -/
def Channel.lostDue (ch : Channel) : Bool :=
  ch.state == .running && !ch.heard && decide (Config.missingMax ≤ ch.missing + 1)

/-- The held-frame count reaches 16 at this switch point (R164 step 2). -/
def Channel.stallDue (ch : Channel) : Bool :=
  ch.state == .running && !ch.lostDue && ch.hold && decide (ch.heldFrames + 1 = Config.heldMax)

/-- The STATUS accounting of a RUNNING channel (R164), with the faults it records. -/
def Channel.account (ch : Channel) : Channel × List FaultKind :=
  if ch.lostDue then
    ({ ch with state := .lost, missing := Config.missingMax, hold := false, heldFrames := 0, heard := false },
      [.statusLost])
  else
    ({ ch with
        missing := if ch.heard then ch.missing else ch.missing + 1
        heldFrames := if ch.hold then min (ch.heldFrames + 1) Config.heldMax else ch.heldFrames
        heard := false },
      if ch.stallDue then [.endpointStalled] else [])

/-- A switch point reaching the channel unit, its FRAME mark or HELLO included: STATUS accounting, then the refresh tick,
then the FRAME mark (R161, R164, R140, R129). -/
def Channel.switchPoint (ch : Channel) (c now : Nat) (tag : BitVec 16) : Channel × List FaultKind :=
  match ch.state with
  | .stopped => (ch, [])
  | .listening => (ch, [])
  | .starting =>
    if ch.helloCount < Config.helloMax then
      (({ ch with helloCount := ch.helloCount + 1 }).helloDue c now, [])
    else (ch.stopEffects, [.noPartner])
  | .running =>
    let (counted, faults) := ch.account
    let (ticked, more) := counted.countTick
    (ticked.frameDue now tag, faults ++ more)
  | .lost => (ch.frameDue now tag, [])

/-! ### A valid STATUS (R148, R149, R157, R159, R162, R163, R165) -/

/-- The comparison of a STATUS with the snapshots in RUNNING (R148, R149): the channel after it, the fault it records, and
whether it forced a refresh. -/
def Channel.compare (ch : Channel) (r : StatusRecord) : Channel × List FaultKind × Bool :=
  match ch.snapshots.find? fun x => x.tag == r.tag with
  | none => ({ ch with staleCount := bump ch.staleCount }, [], false)
  | some x =>
    if x.comparable then
      if x.digest = r.digest.toNat then ({ ch with mismatch := 0 }, [], false)
      else if ch.mismatch = 0 then ({ ch with mismatch := 1 }, [], false)
      else (({ ch with mismatch := 0 }).force, [.digestMismatch], true)
    else (ch, [], false)

/-- A channel taken to RUNNING by a STATUS, from STARTING or from LOST: the link items of R162 and R165, and a forced
refresh (R141). -/
def Channel.enterRunning (ch : Channel) (r : StatusRecord) : Channel :=
  ({ ch with
      state := .running
      helloPending := false
      missing := 0
      heard := true
      hold := r.hold
      heldFrames := 0 }).force

/-- A valid STATUS reaching the channel unit (R157, R159, R162, R163, R165): the channel after it, the fault it records, and
whether it is an event at which a slot decision is taken (R131). DESIGN CHOICE (log entry 25): R162 has a STATUS make a
channel in STARTING RUNNING, and R168 has one that reaches the channel together with the START CHANNELS that took it from
LISTENING change nothing; together is at the same time base value. -/
def Channel.onStatus (ch : Channel) (halted : Bool) (now : Nat) (r : StatusRecord) : Channel × List FaultKind × Bool :=
  let noted := { ch with statusCount := bump ch.statusCount, lastStatus := some r }
  match ch.state with
  | .stopped => (noted, [], false)
  | .listening =>
    (if halted then noted else { noted with state := .starting, helloCount := 0, startedAt := none }, [], false)
  | .starting => if ch.startedAt = some now then (noted, [], false) else (noted.enterRunning r, [], true)
  | .lost => (noted.enterRunning r, [], true)
  | .running =>
    let linked := { noted with
      heard := true
      missing := 0
      hold := r.hold
      heldFrames := if ch.hold && r.hold then ch.heldFrames else 0 }
    let (compared, faults, forced) := linked.compare r
    (compared, faults, forced || (ch.hold && !r.hold))

/-! ### The receiver (R154, R156) -/

/-- A gap of more than 50 µs before a start bit has expired: the partial message is discarded (R156). -/
def Channel.expireGap (ch : Channel) (start : Nat) : Channel :=
  match ch.rx with
  | .idle => ch
  | .assembling _ lastEnd =>
    if lastEnd + Config.returnGap < start then
      { ch with rx := .idle, returnErrors := bump ch.returnErrors }
    else ch

/-- A byte that ends at `byteEnd` with no framing error (R156), and the STATUS it completes, if that is valid. A receiver
that waits for the line to return to mark has taken no start bit (R154). -/
def Channel.takeByte (ch : Channel) (byteEnd : Nat) (b : Byte) : Channel × Option StatusRecord :=
  if ch.rxAwaitMark then (ch, none)
  else
    let ready := ch.expireGap (byteEnd - Config.byteTime)
    match ready.rx with
    | .idle =>
      if b = statusTypeByte then ({ ready with rx := .assembling [b] byteEnd }, none)
      else ({ ready with returnErrors := bump ready.returnErrors }, none)
    | .assembling bytes _ =>
      let held := bytes ++ [b]
      if held.length < 8 then ({ ready with rx := .assembling held byteEnd }, none)
      else
        match parseStatus held, sumIsZero held with
        | some r, true => ({ ready with rx := .idle }, some r)
        | _, _ => ({ ready with rx := .idle, returnErrors := bump ready.returnErrors }, none)

/-- A byte ends at `byteEnd` with its stop bit at space (R154, R156): it and any partial message are discarded, and the
receiver waits for mark. -/
def Channel.framingError (ch : Channel) (byteEnd : Nat) : Channel :=
  if ch.rxAwaitMark then ch
  else
    let ready := ch.expireGap (byteEnd - Config.byteTime)
    { ready with rx := .idle, returnErrors := bump ready.returnErrors, rxWire := ready.rxinv }

/-! ### Options changed (R154, R158, R174) -/

/-- The options stored. A change of WATCH moves a resting channel (R158). A change of TXINV acts at once on a free
transmitter, and one made during a message at the next begin, whatever options are stored meanwhile (R153). A change of RXINV ends a byte in reception, with the wire at the level given, as a framing error; from
then on the receiver takes the line inverted, and waits for mark where it finds it at space (R154). -/
def Channel.setOptions (ch : Channel) (opts : BitVec 5) (byteOnLine : Option Bool) : Channel :=
  let stored := { ch with options := opts }
  let rested := { stored with
    state :=
      match ch.state with
      | .stopped => stored.restState
      | .listening => stored.restState
      | .starting => .starting
      | .running => .running
      | .lost => .lost
    txInverted := if ch.tx.isNone && stored.txinv != ch.txinv then stored.txinv else ch.txInverted }
  match byteOnLine with
  | none => rested
  | some level =>
    if stored.rxinv = ch.rxinv ∨ ch.rxAwaitMark = true then rested
    else { rested with rx := .idle, returnErrors := bump ch.returnErrors, rxWire := level }

/-! ### The channel within the part -/

/-- The four characters of a name word, character 0 first (R5). -/
def wordChars (w : BitVec 32) : List Byte := [laneByte w 0, laneByte w 1, laneByte w 2, laneByte w 3]

/-- A character as it is sent: outside 0x20..0x7E it is 0x3F (R134). -/
def labelChar (b : Byte) : Byte := if 0x20 ≤ b.toNat ∧ b.toNat ≤ 0x7E then b else 0x3F

/-- Eight spaces (R133, R134). -/
def spaces : List Byte := List.replicate 8 0x20

/-- The label "????????" (R134). -/
def questionMarks : List Byte := List.replicate 8 0x3F

/-- The label of a NOTICE for a tile state, from the on-air name as it stands (R133, R134). -/
def State.label (s : State) : TileState → List Byte
  | .unassigned => spaces
  | .unknown => questionMarks
  | .known r =>
    if s.straps.sources ≤ r.source.toNat then spaces
    else
      match s.onAir (.source r.source.toNat) with
      | .name n => (wordChars n.first ++ wordChars n.second).map labelChar
      | .unknown => questionMarks
      | .route _ => questionMarks

/-- A slot decision of channel c, if one may be taken (R131). -/
def State.decideSlot (s : State) (c : Nat) : State :=
  s.setChan c ((s.chan c).slotDecision s.label s.now)

/-- A tile appended to its channel's queue when the channel is RUNNING or LOST, an event at which a slot decision is taken
(R119, R126, R131). -/
def State.enqueue (s : State) (c t : Nat) (label : Bool) : State :=
  match (s.chan c).state with
  | .running => (s.setChan c ((s.chan c).append t label)).decideSlot c
  | .lost => (s.setChan c ((s.chan c).append t label)).decideSlot c
  | .stopped => s
  | .listening => s
  | .starting => s

/-- The faults a channel records, in order (R76). -/
def State.channelFaults (s : State) (c : Nat) (kinds : List FaultKind) : State :=
  kinds.foldl (fun acc k => acc.recordFault k .channel (.channel c)) s

/-- A channel unit replaced, with the faults that go with it. -/
def State.channelEvent (s : State) (c : Nat) (result : Channel × List FaultKind) : State :=
  (s.setChan c result.1).channelFaults c result.2

/-- A valid STATUS at channel c (R157 to R165). -/
def State.validStatus (s : State) (c : Nat) (r : StatusRecord) : State :=
  let (ch, faults, decision) := (s.chan c).onStatus (s.device == .halted) s.now r
  let noted := s.channelEvent c (ch, faults)
  if decision then noted.decideSlot c else noted

/-- A return byte of channel c that ends at `byteEnd` with no framing error (R156). -/
def State.receiveByte (s : State) (c byteEnd : Nat) (b : Byte) : State :=
  let (ch, valid) := (s.chan c).takeByte byteEnd b
  let taken := s.setChan c ch
  match valid with
  | some r => taken.validStatus c r
  | none => taken

/-- A HALT fault recorded makes the device state HALTED; on entry every channel takes the stop effects (R59, R82). -/
def State.recordHalt (s : State) (kind : FaultKind) (location : Location) : State :=
  let recorded := s.recordFault kind .selftest location
  if recorded.device = .halted then recorded
  else ({ recorded with device := .halted }).mapChans fun _ ch => ch.stopEffects

end Sys2Proof.Machine
end

