-- ==== Sys2Proof/Machine/Fanout.lean ====
section
/-! DEFINITION. Subscriptions and the fan-out engine (08): the subscriber index as a view of the assignments, the engine's
place in the head record, and its visits. -/

namespace Sys2Proof.Machine

/-- The number of tile slots of the part (section 8.1). -/
def slotCount : Nat := Config.channels * Config.tilesPerChannel

/-- The tile of a slot, the pair (c, t) written 64·c + t. -/
def State.slotTile (s : State) (k : Nat) : Tile :=
  (s.chan (k / Config.tilesPerChannel)).tile (k % Config.tilesPerChannel)

/-- A slot watches a crosspoint entry (R109). -/
def State.watches (s : State) (e : Crosspoint) (k : Nat) : Bool := decide ((s.slotTile k).assignment = some e)

/-- A slot is assigned and shows a source (R111, R118). -/
def State.showsSource (s : State) (n : Nat) (k : Nat) : Bool :=
  (s.slotTile k).assignment.isSome &&
    (match (s.slotTile k).current with
      | .known r => r.source.toNat == n
      | .unassigned => false
      | .unknown => false)

/-- The subscriber index's list of an entry: the slots assigned to it, ascending by channel and by tile (R110). -/
def State.subscribers (s : State) (e : Crosspoint) : List Nat := (List.range slotCount).filter (s.watches e)

/-- The slots an item is carried to: the subscribers of a crosspoint change, the tiles that show the source of a name change
(R117, R118). -/
def State.visits (s : State) : Entry → Nat → Bool
  | .crosspoint e => s.watches e
  | .source n => s.showsSource n

/-- A slot lies after the engine's position (R116). -/
def afterPosition (position : Option Nat) (k : Nat) : Bool :=
  match position with
  | none => true
  | some p => decide (p < k)

/-- The next slot to visit for an item, as the records stand now (R117, R118). -/
def State.nextVisit (s : State) (e : Entry) (position : Option Nat) : Option Nat :=
  (List.range slotCount).find? fun k => afterPosition position k && s.visits e k

/-- The first item, from the one numbered `i` on, that has a visit to make; items with none are finished as they are
reached (R116). -/
def State.firstItem (s : State) : List (Entry × Value) → Nat → Option Nat
  | [], _ => none
  | (e, _) :: rest, i => if (s.nextVisit e none).isSome then some i else s.firstItem rest (i + 1)

/-- The engine takes up the head of a list of records at its first item with a visit; a record with none is finished in the
same event and the next is taken up (R102, R116). -/
def State.takeUp (s : State) : List TakeRecord → List TakeRecord × Option Fanout
  | [] => ([], none)
  | r :: rest =>
    match s.firstItem r.changes 0 with
    | some i => (r :: rest, some { item := i, position := none })
    | none => s.takeUp rest

/-- The engine set to a take queue and a place in its head. -/
def State.setEngine (s : State) (x : List TakeRecord × Option Fanout) : State :=
  { s with gather := { s.gather with takeQueue := x.1 }, fanout := x.2 }

/-- After a visit: the engine stays on an item with a visit left, and otherwise moves to the next item that has one; a
finished record leaves the queue and the next is taken up (R102, R116). -/
def State.advance (s : State) (at_ : Fanout) : State :=
  match s.gather.takeQueue with
  | [] => s.setEngine ([], none)
  | r :: rest =>
    match r.changes[at_.item]? with
    | some (e, _) =>
      if (s.nextVisit e at_.position).isSome then { s with fanout := some at_ }
      else
        match s.firstItem (r.changes.drop (at_.item + 1)) (at_.item + 1) with
        | some i => { s with fanout := some { item := i, position := none } }
        | none => s.setEngine (s.takeUp rest)
    | none => s.setEngine (s.takeUp rest)

/-- A visit of a crosspoint change of record N with new value v at slot k (R117, R119). -/
def State.visitCrosspoint (s : State) (number : BitVec 32) (v : Value) (k : Nat) : State :=
  let c := k / Config.tilesPerChannel
  let t := k % Config.tilesPerChannel
  let x := (s.chan c).tile t
  if x.take.toNat < number.toNat then
    (s.setChan c ((s.chan c).setTile t { x with current := v.tileState, take := number })).enqueue c t false
  else s

/-- A visit of a name change at slot k (R118, R119). -/
def State.visitName (s : State) (k : Nat) : State :=
  s.enqueue (k / Config.tilesPerChannel) (k % Config.tilesPerChannel) true

/-- The item the engine is carrying: its record's number, the entry and its new value. -/
def State.currentItem (s : State) : Option (Fanout × BitVec 32 × Entry × Value) :=
  match s.fanout, s.gather.takeQueue with
  | some at_, r :: _ =>
    match r.changes[at_.item]? with
    | some (e, v) => some (at_, r.number, e, v)
    | none => none
  | _, _ => none

/-- The engine's next visit for a crosspoint change (R117). With no pair left, the item ends. -/
def State.crosspointVisit (s : State) : State :=
  match s.currentItem with
  | some (at_, number, .crosspoint e, v) =>
    match s.nextVisit (.crosspoint e) at_.position with
    | some k => (s.visitCrosspoint number v k).advance { at_ with position := some k }
    | none => s.advance at_
  | _ => s

/-- The engine's next visit for a name change (R118). With no slot left, the item ends. -/
def State.nameVisit (s : State) : State :=
  match s.currentItem with
  | some (at_, _, .source n, _) =>
    match s.nextVisit (.source n) at_.position with
    | some k => (s.visitName k).advance { at_ with position := some k }
    | none => s.advance at_
  | _ => s

/-- CROSSPOINT_VISIT (R117). -/
def execCrosspointVisit (s : State) : Host.Outcome State Fault Refusal :=
  .next (if s.up then s.crosspointVisit else s)

/-- NAME_CHANGE_VISIT (R118). -/
def execNameChangeVisit (s : State) : Host.Outcome State Fault Refusal := .next (if s.up then s.nameVisit else s)

end Sys2Proof.Machine
end

