-- ==== Sys2Proof/Machine/FrameUnit.lean ====
section
/-! DEFINITION. The frame reference unit (06), the close of the gather (07) and the switch-point event, with a channel's part of
it also as commands of their own. -/

namespace Sys2Proof.Machine

/-! ### The gather at a switch point (R99, R104) -/

/-- The items of the record a close makes: the dirty entries whose tracked value differs from their value-at-open (R99). -/
def State.closeChanges (s : State) : List (Entry × Value) :=
  s.gather.dirty.filterMap fun p => if s.tracked p.1 = p.2 then none else some (p.1, s.tracked p.1)

/-- The open gather closes into a take record numbered F, bounces left out (R99); an idle fan-out engine takes the record up
in the same event (R116). -/
def State.closeGather (s : State) : State :=
  let changes := s.closeChanges
  let closed := { s with gather := { s.gather with
    dirty := []
    bounced := min (s.gather.bounced + (s.gather.dirty.length - changes.length)) Config.countMax } }
  if changes = [] then closed
  else
    let queue := s.gather.takeQueue ++ [{ number := s.frame.count, changes }]
    match s.fanout with
    | some _ => { closed with gather := { closed.gather with takeQueue := queue } }
    | none => closed.setEngine (closed.takeUp queue)

/-- A switch point that finds the take queue full keeps the gather open (R104). -/
def State.lateTake (s : State) : State :=
  ({ s with gather := { s.gather with late := bump s.gather.late } }).recordFault .lateTake .reference .absent

/-- The switch point at the gather unit (R99, R104). -/
def State.gatherSwitchPoint (s : State) : State :=
  if s.gather.takeQueue.length < Config.takeQueueMax then s.closeGather else s.lateTake

/-! ### The switch point (R91, R92) -/

/-- The switch point at channel c, with the new frame tag. -/
def State.channelSwitchPoint (s : State) (c : Nat) : State :=
  s.channelEvent c ((s.chan c).switchPoint c s.now s.tag)

/-- A switch point: F adds 1, then the gather unit and the channel units 0 to 15 take it (R92). DESIGN CHOICE (log entry 10):
the channels record their faults in ascending order. -/
def State.switchPoint (s : State) : State :=
  (List.range Config.channels).foldl State.channelSwitchPoint
    ({ s with frame := { s.frame with count := s.frame.count + 1 } }).gatherSwitchPoint

/-! ### The frame reference unit (R85 to R90, R93) -/

/-- The REFERENCE event (R93). -/
def State.raiseReference (s : State) : State := { s with mgmt := { s.mgmt with reference := true } }

/-- E and w computed anew from a new last switch time, with the P0 in force (R85). -/
def State.setSwitchTime (s : State) (last : Nat) (latest : Option Nat) (state : RefState) : State :=
  { s with frame := { s.frame with
      state
      lastSwitch := last
      expected := last + s.params.p0
      halfWidth := Config.halfWidth s.params.p0
      latest } }

/-- The re-acquire candidates emptied (R87, R90). -/
def State.clearCandidates (s : State) : State := { s with frame := { s.frame with candidates := [] } }

/-- A pulse in the window is accepted at time t (R87). -/
def State.acceptPulse (s : State) (t : Nat) : State :=
  let switched := (s.switchPoint.setSwitchTime t (some t) .locked).clearCandidates
  if s.frame.state = .flywheel then switched.raiseReference else switched

/-- The candidates after a rejected pulse joins: the three most recent (R88). -/
def joinCandidates (l : List Nat) (t : Nat) : List Nat := (if 3 ≤ l.length then l.drop (l.length - 2) else l) ++ [t]

/-- The re-acquire test (R90): three candidates, each interval within P0 − w to P0 + w. -/
def reacquires (p0 : Nat) (candidates : List Nat) : Bool :=
  match candidates with
  | [c1, c2, c3] =>
    decide (c1 + (p0 - Config.halfWidth p0) ≤ c2 ∧ c2 ≤ c1 + (p0 + Config.halfWidth p0) ∧
      c2 + (p0 - Config.halfWidth p0) ≤ c3 ∧ c3 ≤ c2 + (p0 + Config.halfWidth p0))
  | _ => false

/-- Re-acquire at c3, the pulse that has just joined (R90). -/
def State.reacquire (s : State) (t : Nat) : State :=
  let switched := if s.frame.latest = some t then s else s.switchPoint
  ((switched.setSwitchTime t (some t) .locked).clearCandidates).raiseReference

/-- A pulse is rejected and joins the candidates; outside ABSENT the noise count adds 1 (R88). In ABSENT and FLYWHEEL the
re-acquire test follows (R90). -/
def State.rejectPulse (s : State) (t : Nat) : State :=
  let joined := { s with frame := { s.frame with
    candidates := joinCandidates s.frame.candidates t
    noise := if s.frame.state = .absent then s.frame.noise else bump s.frame.noise } }
  if s.frame.state ≠ .locked ∧ reacquires s.params.p0 joined.frame.candidates = true then joined.reacquire t
  else joined

/-- A rise on REFIN, at the time base value now (R84, R86, R87, R88). -/
def State.pulse (s : State) : State :=
  if s.frame.state ≠ .absent ∧ s.frame.expected ≤ s.now + s.frame.halfWidth ∧
      s.now ≤ s.frame.expected + s.frame.halfWidth then s.acceptPulse s.now
  else s.rejectPulse s.now

/-- E expires in ABSENT (R86). -/
def State.freeRunDue (s : State) : Bool := decide (s.frame.state = .absent ∧ s.frame.expected ≤ s.now)

/-- The free-running switch point (R86). -/
def State.freeRun (s : State) : State :=
  s.switchPoint.setSwitchTime s.frame.expected (some s.frame.expected) .absent

/-- The window ends in LOCKED or FLYWHEEL (R89). -/
def State.windowDue (s : State) : Bool :=
  decide (s.frame.state ≠ .absent ∧ s.frame.expected + s.frame.halfWidth ≤ s.now)

/-- The flywheel switch point (R89): made at E + w, counted from E. -/
def State.flywheel (s : State) : State :=
  let switched := s.switchPoint.setSwitchTime s.frame.expected (some (s.frame.expected + s.frame.halfWidth)) .flywheel
  if s.frame.state = .locked then switched.raiseReference else switched

/-- REFIN_PULSE (R87). -/
def execRefinPulse (s : State) : Host.Outcome State Fault Refusal := .next (if s.up then s.pulse else s)

/-- FREE_RUNNING_SWITCH_POINT (R86). -/
def execFreeRunningSwitchPoint (s : State) : Host.Outcome State Fault Refusal :=
  .next (if s.up && s.freeRunDue then s.freeRun else s)

/-- WINDOW_EXPIRY (R89). -/
def execWindowExpiry (s : State) : Host.Outcome State Fault Refusal :=
  .next (if s.up && s.windowDue then s.flywheel else s)

/-! ### A channel's part of a switch point as a command

The switch-point commands above hold these already, as R92, R140, R161 and R164 state them. Commanded alone, each takes its
part of a switch point at one channel where that part is due (log entry 9). -/

/-- STATUS_LOST (R164): the accounting that brings the missing count to 4. -/
def execStatusLost (chan : Fin 16) (s : State) : Host.Outcome State Fault Refusal :=
  .next (if s.up && (s.chan chan.val).lostDue then s.channelEvent chan.val (s.chan chan.val).account else s)

/-- ENDPOINT_STALLED (R164): the accounting that brings the held-frame count to 16. -/
def execEndpointStalled (chan : Fin 16) (s : State) : Host.Outcome State Fault Refusal :=
  .next (if s.up && (s.chan chan.val).stallDue then s.channelEvent chan.val (s.chan chan.val).account else s)

/-- The tick count reaches R at this switch point (R140). -/
def Channel.tickDue (ch : Channel) : Bool := ch.state == .running && decide (ch.interval ≤ ch.ticks + 1)

/-- DEBT_TICK (R140). -/
def execDebtTick (chan : Fin 16) (s : State) : Host.Outcome State Fault Refusal :=
  .next (if s.up && (s.chan chan.val).tickDue then s.channelEvent chan.val (s.chan chan.val).countTick else s)

/-- The HELLO count stands at 8 at a switch point (R161). -/
def Channel.startTimeoutDue (ch : Channel) : Bool :=
  ch.state == .starting && decide (Config.helloMax ≤ ch.helloCount)

/-- STARTING_TIMEOUT (R161). -/
def execStartingTimeout (chan : Fin 16) (s : State) : Host.Outcome State Fault Refusal :=
  .next (if s.up && (s.chan chan.val).startTimeoutDue then
    s.channelEvent chan.val ((s.chan chan.val).stopEffects, [.noPartner]) else s)

end Sys2Proof.Machine
end

