-- ==== Sys2Proof/Machine/Links.lean ====
section
/-! DEFINITION. The endpoint links (09 section 9.3, 11): the end of a message on a transmit line, and the events of a return
line. -/

namespace Sys2Proof.Machine

/-- The message on channel c's transmit line has reached its end (R128). -/
def State.messageDue (s : State) (c : Nat) : Bool :=
  match (s.chan c).tx with
  | some m => decide (m.endsAt ≤ s.now)
  | none => false

/-- A message ends (R128, R129, R131, R161): a pending FRAME mark begins, else a pending HELLO, else a slot decision is
taken. -/
def State.messageEnds (s : State) (c : Nat) : State :=
  let freed := { s.chan c with tx := none }
  match freed.framePending with
  | some tag => s.setChan c (freed.beginFrame s.now tag)
  | none =>
    if freed.helloPending then s.setChan c (freed.beginHello c s.now)
    else (s.setChan c freed).decideSlot c

/-- Eight bytes received one after another, the last ending now, each a byte time after the one before (R153, R156). -/
def State.receiveMessage (s : State) (c : Nat) (bytes : List Byte) : State :=
  (bytes.zipIdx).foldl
    (fun acc p => acc.receiveByte c (s.now + Config.byteTime * (p.2 + 1) - Config.byteTime * bytes.length) p.1) s

/-- 50 µs have passed after the last byte with no new start bit (R156). -/
def Channel.gapDue (ch : Channel) (now : Nat) : Bool :=
  match ch.rx with
  | .assembling _ lastEnd => decide (lastEnd + Config.returnGap ≤ now)
  | .idle => false

/-- The gap expires: the bytes held are discarded (R156). -/
def Channel.gapExpires (ch : Channel) : Channel := { ch with rx := .idle, returnErrors := bump ch.returnErrors }

/-- The return line, as the part takes it, is at mark (R154). -/
def Channel.markReturns (ch : Channel) : Channel := { ch with rxWire := !ch.rxinv }

/-- MESSAGE_END (R128). -/
def execMessageEnd (chan : Fin 16) (s : State) : Host.Outcome State Fault Refusal :=
  .next (if s.up && s.messageDue chan.val then s.messageEnds chan.val else s)

/-- STATUS (R157): a message of eight bytes, taken as those eight bytes are. -/
def execStatus (chan : Fin 16) (msg : StatusBytes) (s : State) : Host.Outcome State Fault Refusal :=
  .next (if s.up then s.receiveMessage chan.val (StatusBytes.toList msg) else s)

/-- FRAMING_ERROR (R154). -/
def execFramingError (chan : Fin 16) (s : State) : Host.Outcome State Fault Refusal :=
  .next (if s.up then s.setChan chan.val ((s.chan chan.val).framingError s.now) else s)

/-- UNKNOWN_TYPE (R156): a byte ends on the return line; the receiver's state decides what it is. -/
def execUnknownType (chan : Fin 16) (byte : Byte) (s : State) : Host.Outcome State Fault Refusal :=
  .next (if s.up then s.receiveByte chan.val s.now byte else s)

/-- RETURN_GAP_EXPIRY (R156). -/
def execReturnGapExpiry (chan : Fin 16) (s : State) : Host.Outcome State Fault Refusal :=
  .next (if s.up && (s.chan chan.val).gapDue s.now then s.setChan chan.val (s.chan chan.val).gapExpires else s)

/-- LINE_RETURNED_TO_MARK (R154): the receiver again looks for a start bit. -/
def execLineReturnedToMark (chan : Fin 16) (s : State) : Host.Outcome State Fault Refusal :=
  .next (if s.up then s.setChan chan.val (s.chan chan.val).markReturns else s)

/-- RETURN_BYTE (R156). -/
def execReturnByte (chan : Fin 16) (byte : Byte) (s : State) : Host.Outcome State Fault Refusal :=
  .next (if s.up then s.receiveByte chan.val s.now byte else s)

end Sys2Proof.Machine
end

