-- ==== Sys2Proof/Machine/LoanUnit.lean ====
section
/-! DEFINITION. The loan unit (03 section 3.5). -/

namespace Sys2Proof.Machine

/-- LOANREQ asserted: in NONE the state becomes REQUESTED, and the grant follows in the same event when nothing is in flight
(R49, R50). While RSTN is low only the pin's level is kept, for R54. -/
def State.loanAsked (s : State) : State :=
  let raised := { s with loanReq := true }
  if raised.up = true ∧ raised.loan = .none then ({ raised with loan := .requested }).grantIfDrained else raised

/-- LOANREQ deasserted: a granted loan ends and the sweep starts again (R52); a request is withdrawn (R53). The loan state
found decides which, as R53 gives it. While RSTN is low only the pin's level is kept. -/
def State.loanDropped (s : State) : State :=
  let lowered := { s with loanReq := false }
  if lowered.up then
    match lowered.loan with
    | .granted => ({ lowered with loan := .none }).restartSweep
    | .requested => { lowered with loan := .none }
    | .none => lowered
  else lowered

/-- LOAN_REQUEST (R49). -/
def execLoanRequest (s : State) : Host.Outcome State Fault Refusal := .next s.loanAsked

/-- LOAN_GRANT (R50): the grant, where the list is empty in REQUESTED. -/
def execLoanGrant (s : State) : Host.Outcome State Fault Refusal := .next (if s.up then s.grantIfDrained else s)

/-- LOAN_END (R52). -/
def execLoanEnd (s : State) : Host.Outcome State Fault Refusal := .next s.loanDropped

/-- LOAN_WITHDRAWAL (R53). -/
def execLoanWithdrawal (s : State) : Host.Outcome State Fault Refusal := .next s.loanDropped

end Sys2Proof.Machine
end

