-- ==== Sys2Proof/Machine/Ports.lean ====
section
/-! DEFINITION. The control ports (02): taking a request with its acceptance checks, and the wait timeout. -/

namespace Sys2Proof.Machine

/-- An accepted request becomes the pending request, its wait timer started with the Ta in force (R22, R32). -/
def State.makePending (s : State) (p : PortId) (op : PendingOp) : State :=
  s.setPort p { s.port p with pending := some { op, wait := .waiting (s.now + s.params.ta) } }

/-- A request answered FAIL at its acceptance, with the fault of the check it failed (R22, R23, R24). -/
def State.refuseRequest (s : State) (p : PortId) (kind : FaultKind) (a : WordAddr) : State :=
  (s.setPort p { s.port p with answers := (s.port p).answers ++ [.fail] }).recordFault kind (portOrigin p) (.word a)

/-- The write an accepted request sends to memory, by its decode (R25): corrected data with fresh check bits, or the poison
pattern over the data as received. -/
def decodedWrite (r : Request) (eccen : Bool) : EccOutcome × WriteWord :=
  let d := decodeWord eccen r.data r.check
  match d.outcome with
  | .uncorrectable =>
    (.uncorrectable,
      { addr := r.addr, lanes := r.lanes, data := r.data, check := poisonCheck r.data, poisoned := true })
  | .clean => (.clean, { addr := r.addr, lanes := r.lanes, data := d.data, check := d.check, poisoned := false })
  | .corrected =>
    (.corrected, { addr := r.addr, lanes := r.lanes, data := d.data, check := d.check, poisoned := false })

/-- The fault of a write's decode at acceptance (R25). -/
def State.recordWriteDecode (s : State) (p : PortId) (outcome : EccOutcome) (a : WordAddr) : State :=
  match outcome with
  | .clean => s
  | .corrected => s.recordFault .writeCorrected (portOrigin p) (.word a)
  | .uncorrectable =>
    if s.straps.region a = .outside then s.recordFault .poisonedOutside (portOrigin p) (.word a)
    else s.recordFault .poisonedRegionWrite (portOrigin p) (.word a)

/-- An accepted write: with posting depth 8 it enters the queue and is answered DONE if there is space, and otherwise
becomes the pending request (R22, R28). -/
def State.acceptWrite (s : State) (p : PortId) (w : WriteWord) : State :=
  if s.straps.post then
    if (s.port p).queue.length < Config.postedDepth then
      s.setPort p { s.port p with queue := (s.port p).queue ++ [w], answers := (s.port p).answers ++ [.done] }
    else s.makePending p (.write w)
  else s.makePending p (.write w)

/-- A port takes a request and makes the acceptance checks in order (R22 to R25). -/
def State.takeRequest (s : State) (p : PortId) (r : Request) : State :=
  if s.straps.aparen && r.parityOdd then s.refuseRequest p .addressParity r.addr
  else if s.straps.eccen && r.write && !fullLanes r.lanes then s.refuseRequest p .partialWithEcc r.addr
  else if r.write then
    let (outcome, w) := decodedWrite r s.straps.eccen
    (s.recordWriteDecode p outcome r.addr).acceptWrite p w
  else s.makePending p (.read r.addr)

/-- A processor presents a request: a port with no pending request takes it; behind a pending one it stays presented, after
those presented before it (R22). -/
def State.presentRequest (s : State) (p : PortId) (r : Request) : State :=
  match (s.port p).pending with
  | none => s.takeRequest p r
  | some _ => s.setPort p { s.port p with presented := (s.port p).presented ++ [r] }

/-- A port with no pending request takes what stands presented on its bus, in order, until a request becomes its pending
one (R22). -/
def State.takePresented (s : State) (p : PortId) : State :=
  match (s.port p).pending with
  | some _ => s
  | none =>
    (s.port p).presented.foldl (fun acc r => acc.presentRequest p r) (s.setPort p { s.port p with presented := [] })

/-- The wait timer of a port expires once its time has come: FAIL, and ACCESS 0x11 or 0x12 (R32). -/
def State.expireWait (s : State) (p : PortId) : State :=
  match (s.port p).pending with
  | some ⟨op, .waiting deadline⟩ =>
    if deadline ≤ s.now then
      (s.answerPort p .fail).recordFault
        (match op with
          | .read _ => .readWaitTimeout
          | .write _ => .writeWaitTimeout)
        (portOrigin p) (.word op.addr)
    else s
  | _ => s

/-- A port that held a request pending in `s` and has been freed of it by its answer in `t` (R22). -/
def State.freeing (s t : State) (p : PortId) : State := if (s.port p).pending.isSome then t.takePresented p else t

/-- An event from `s` to `t` that may have answered requests: each port freed takes what stands presented, in the event of
the answer, before any other command (R22). DESIGN CHOICE (log entry 26): where one event frees both ports, port A takes before
port B; the spec gives no order (R34, R79). -/
def State.settle (s t : State) : State := s.freeing (s.freeing t .a) .b

/-- CONTROL_REQUEST (R22). While RSTN is low a request is not taken at all (R35). -/
def execControlRequest (port : PortId) (req : Request) (s : State) : Host.Outcome State Fault Refusal :=
  .next (if s.up then (s.takePresented port).presentRequest port req else s)

/-- WAIT_TIMEOUT (R32). -/
def execWaitTimeout (port : PortId) (s : State) : Host.Outcome State Fault Refusal :=
  .next (if s.up then s.settle (s.expireWait port) else s)

end Sys2Proof.Machine
end

