-- ==== Sys2Proof/Machine/MemoryPort.lean ====
section
/-! DEFINITION. The memory port and the arbiter (03), the snoop and the read completions of the image tracker (01), and the
outcomes of a fetch read (04). -/

namespace Sys2Proof.Machine

/-! ### The arbiter (R38, R46, R47) -/

/-- The memory port has an opportunity to issue (R38): the loan state is NONE and fewer than four accesses are in flight.
That it is not in the middle of starting another access is the moment at which ISSUE is commanded (log entry 6). -/
def State.canIssue (s : State) : Bool :=
  decide (s.loan = .none) && decide (s.memPort.inflight.length < Config.inflightMax)

/-- What the arbiter grants. -/
inductive Grant where
  | port (p : PortId) (c : Candidate)
  | fetch (a : WordAddr)
  deriving DecidableEq, Repr

/-- The other port. -/
def otherPort : PortId → PortId
  | .a => .b
  | .b => .a

/-- A port's candidate as it stands now (R31). -/
def State.candidate (s : State) (p : PortId) : Option Candidate := (s.port p).candidate s.straps.post

/-- The choice of steps 2 and 3 of R46 between the ports. -/
def State.grantPort (s : State) : Option Grant :=
  match s.candidate .a, s.candidate .b with
  | some x, some y =>
    match otherPort s.memPort.lastGranted with
    | .a => some (.port .a x)
    | .b => some (.port .b y)
  | some x, none => some (.port .a x)
  | none, some y => some (.port .b y)
  | none, none => none

/-- The arbiter's grant at an opportunity (R46). -/
def State.arbitrate (s : State) : Option Grant :=
  match s.fetchWaiting with
  | some a =>
    if s.params.ls < 255 ∧ s.params.ls ≤ s.memPort.starvation then some (.fetch a)
    else
      match s.grantPort with
      | some g => some g
      | none => some (.fetch a)
  | none => s.grantPort

/-- The arbiter's state after a grant (R47). -/
def State.noteGrant (s : State) (g : Grant) : State :=
  match g with
  | .port p _ =>
    { s with memPort := { s.memPort with
        lastGranted := p
        starvation :=
          if s.fetchWaiting.isSome then min (s.memPort.starvation + 1) Config.starvationMax
          else s.memPort.starvation } }
  | .fetch _ => { s with memPort := { s.memPort with starvation := 0 } }

/-! ### Issue (R8 to R12, R39) -/

/-- An access appended to the in-flight list with its issue time and deadline (R37, R39, R42). -/
def State.appendAccess (s : State) (origin : Requester) (op : AccessOp) (a : WordAddr) : State :=
  { s with memPort := { s.memPort with
      inflight := s.memPort.inflight ++
        [{ origin, op, addr := a, region := Straps.region s.straps a, issueTime := s.now,
           deadline := s.now + s.params.tm }] } }

/-- The stale mark of one read set (R8). -/
def Access.stale (e : Access) : Access :=
  match e.op with
  | .read _ => { e with op := .read true }
  | .write _ _ => e

/-- The stale mark of every read of a region word in flight set by the issue of a write to that word (R8). -/
def State.markStale (s : State) (a : WordAddr) : State :=
  { s with memPort := { s.memPort with
      inflight := s.memPort.inflight.map fun e => if e.addr = a ∧ e.region ≠ .outside then e.stale else e } }

/-- What the snoop of a write makes of a shadow entry (R9 to R12): `whole` is the written tracked bits, `merge` the written
lanes over the held value. -/
def snoopQuality {α : Type} (covers touches poisoned : Bool) (whole : α) (merge : α → α) (q : Quality α) : Quality α :=
  if poisoned then .suspect
  else if covers then .verified whole
  else if touches then
    match q with
    | .unverified h => .unverified (merge h)
    | .verified h => .verified (merge h)
    | .unknown => .unknown
    | .suspect => .suspect
  else q

/-- The snoop leaves the word to be read again: a clean partial write that touches an UNKNOWN or SUSPECT entry (R11). -/
def snoopDoubts {α : Type} (covers touches poisoned : Bool) (q : Quality α) : Bool :=
  !poisoned && !covers && touches &&
    (match q with
      | .unknown => true
      | .suspect => true
      | .unverified _ => false
      | .verified _ => false)

/-- The snoop point of a write (R9 to R12). -/
def State.snoop (s : State) (w : WriteWord) : State :=
  let doubts := s.live &&
    s.anyQuality w.addr (snoopDoubts (coversCrosspoint w.lanes) (touchesCrosspoint w.lanes) w.poisoned)
      (snoopDoubts (coversName w.lanes) (touchesName w.lanes) w.poisoned)
  let snooped := s.actOnWord w.addr
    (snoopQuality (coversCrosspoint w.lanes) (touchesCrosspoint w.lanes) w.poisoned (routeOf w.data)
      (mergeRoute w.lanes w.data))
    (snoopQuality (coversName w.lanes) (touchesName w.lanes) w.poisoned w.data (mergeNameWord w.lanes w.data))
  if doubts then snooped.addReread w.addr else snooped

/-- The issue of a write (R39): stale marks set, the access in flight, the snoop. -/
def State.issueWrite (s : State) (p : PortId) (w : WriteWord) (posted : Bool) : State :=
  ((s.markStale w.addr).appendAccess (.port p) (.write w posted) w.addr).snoop w

/-- The issue of a read (R39): of a region word its stale mark is set from issue while the tracker is not live (R8). -/
def State.issueRead (s : State) (origin : Requester) (a : WordAddr) : State :=
  s.appendAccess origin (.read (decide (Straps.region s.straps a ≠ .outside) && !s.live)) a

/-- The oldest queued write leaves its queue, and a write waiting for space enters it and is answered DONE in the same event
(R28, R39). -/
def Port.takeHead (pt : Port) (rest : List WriteWord) : Port :=
  match pt.pending with
  | some ⟨.write w, .waiting _⟩ => { pt with queue := rest ++ [w], pending := none, answers := pt.answers ++ [.done] }
  | _ => { pt with queue := rest }

/-- The granted access is issued (R39). -/
def State.issueGrant (s : State) : Grant → State
  | .fetch a => s.takeFetchRead.issueRead .fetch a
  | .port p .pendingRequest =>
    match (s.port p).pending with
    | none => s
    | some r =>
      let started := s.setPort p { s.port p with pending := some { r with wait := .issued } }
      match r.op with
      | .read a => started.issueRead (.port p) a
      | .write w => started.issueWrite p w false
  | .port p .queueHead =>
    match (s.port p).queue with
    | [] => s
    | w :: rest => (s.setPort p ((s.port p).takeHead rest)).issueWrite p w true

/-- An opportunity to issue (R38, R39, R46, R47). -/
def State.issue (s : State) : State :=
  if s.canIssue then
    match s.arbitrate with
    | some g => (s.noteGrant g).issueGrant g
    | none => s
  else s

/-! ### Completions (R14 to R16, R26, R40, R41, R67, R68) -/

/-- The oldest access leaves the in-flight list. -/
def State.popInflight (s : State) (rest : List Access) : State :=
  { s with memPort := { s.memPort with inflight := rest } }

/-- A VERIFIED entry's held value differs from the tracked bits read (R15). -/
def mismatches {α : Type} [DecidableEq α] (value : α) : Quality α → Bool
  | .verified h => decide (h ≠ value)
  | .unknown => false
  | .suspect => false
  | .unverified _ => false

/-- The shadow's part of a completed read of a region word with its mark clear, the tracker live: R15 for readable data, with
one ENTRY 0x33 where a VERIFIED entry differs, and R16 for unreadable data. -/
def State.trackRead (s : State) (origin : Origin) (a : WordAddr) (d : Decoded) : State :=
  match d.outcome with
  | .uncorrectable => s.actOnWord a (fun _ => .suspect) (fun _ => .suspect)
  | _ =>
    let differs := s.live && s.anyQuality a (mismatches (routeOf d.data)) (mismatches d.data)
    let tracked := s.actOnWord a (fun _ => .verified (routeOf d.data)) (fun _ => .verified d.data)
    if differs then tracked.recordFault .contentMismatch origin (.word a) else tracked

/-- The fault a read's decode records for its requester (R26, R67). -/
def State.recordReadDecode (s : State) (e : Access) (outcome : EccOutcome) : State :=
  match outcome with
  | .clean => s
  | .corrected =>
    match e.origin with
    | .port p => s.recordFault .readCorrected (portOrigin p) (.word e.addr)
    | .fetch => s.recordFault .fetchCorrected .fetch (.word e.addr)
  | .uncorrectable =>
    if e.region = .outside then s.recordFault .uncorrectableOutside e.origin.origin (.word e.addr)
    else s.recordFault .uncorrectableRegion e.origin.origin (.word e.addr)

/-- An entry is UNKNOWN or UNVERIFIED: a dropped fetch read leaves it short of VERIFIED (R68). -/
def Quality.short {α : Type} : Quality α → Bool
  | .unknown => true
  | .unverified _ => true
  | .suspect => false
  | .verified _ => false

/-- A completed read goes to its requester (R26, R40): a port is answered; a fetch read is finished, and a dropped one puts
its word on the re-read list where an entry is UNKNOWN or UNVERIFIED (R67, R68). -/
def State.deliverRead (s : State) (e : Access) (stale : Bool) (d : Decoded) : State :=
  match e.origin with
  | .port p =>
    s.answerPort p
      (match d.outcome with
        | .uncorrectable => .fail
        | _ => .data d.data d.check)
  | .fetch =>
    let finished := s.finishFetch
    if stale && finished.anyQuality e.addr Quality.short Quality.short then finished.addReread e.addr else finished

/-- The completion of a read that has left the list (R40). -/
def State.completeRead (s : State) (e : Access) (stale : Bool) (data : BitVec 32) (check : BitVec 7) : State :=
  let d := decodeWord s.straps.eccen data check
  let recorded := s.recordReadDecode e d.outcome
  let tracked :=
    if e.region ≠ .outside ∧ stale = false then recorded.trackRead e.origin.origin e.addr d else recorded
  tracked.deliverRead e stale d

/-- Memory returns data: it is the oldest access's if that is a read, and belongs to no access otherwise (R40, R45). -/
def State.readCompletes (s : State) (data : BitVec 32) (check : BitVec 7) : State :=
  match s.memPort.inflight with
  | [] => s
  | e :: rest =>
    match e.op with
    | .read stale => ((s.popInflight rest).completeRead e stale data check).grantIfDrained
    | .write _ _ => s

/-- Memory releases WAIT: a non-posted write is answered DONE, or FAIL if it was poisoned (R25, R41). -/
def State.writeCompletes (s : State) : State :=
  match s.memPort.inflight with
  | [] => s
  | e :: rest =>
    match e.op with
    | .read _ => s
    | .write w posted =>
      let popped := s.popInflight rest
      (match e.origin with
        | .port p =>
          if posted then popped else popped.answerPort p (if w.poisoned then .fail else .done)
        | .fetch => popped).grantIfDrained

/-! ### The memory timeout (R42 to R44) -/

/-- One abandoned access dealt with by its origin, kind and region (R44). -/
def State.abandon (s : State) (e : Access) : State :=
  match e.op, e.origin with
  | .read _, .port p =>
    (s.answerPort p .fail).recordFault .readMemoryTimeout (portOrigin p) (.word e.addr)
  | .read _, .fetch =>
    (s.finishFetch.recordFault .fetchTimeout .fetch (.word e.addr)).addReread e.addr
  | .write _ posted, .port p =>
    let answered := if posted then s else s.answerPort p .fail
    if e.region = .outside then answered
    else
      ((answered.actOnWord e.addr (fun _ => .suspect) (fun _ => .suspect)).recordFault .regionWriteTimeout
        (portOrigin p) (.word e.addr)).addReread e.addr
  | .write _ _, .fetch => s

/-- Tm expires for the oldest access: every access in flight is abandoned, in issue order (R43). -/
def State.memoryTimesOut (s : State) : State :=
  match s.memPort.inflight with
  | [] => s
  | e :: rest =>
    if e.deadline ≤ s.now then
      ((e :: rest).foldl State.abandon (s.popInflight [])).grantIfDrained
    else s

/-- ISSUE (R39). -/
def execIssue (s : State) : Host.Outcome State Fault Refusal := .next (if s.up then s.settle s.issue else s)

/-- READ_COMPLETION (R40). -/
def execReadCompletion (data : BitVec 32) (check : BitVec 7) (s : State) : Host.Outcome State Fault Refusal :=
  .next (if s.up then s.settle (s.readCompletes data check) else s)

/-- WRITE_COMPLETION (R41). -/
def execWriteCompletion (s : State) : Host.Outcome State Fault Refusal :=
  .next (if s.up then s.settle s.writeCompletes else s)

/-- MEMORY_TIMEOUT (R43). -/
def execMemoryTimeout (s : State) : Host.Outcome State Fault Refusal :=
  .next (if s.up then s.settle s.memoryTimesOut else s)

end Sys2Proof.Machine
end

