-- ==== Sys2Proof/Machine/Flags.lean ====
section
/-! DEFINITION. The pending event bits and the output pins, as views of State: MIRQ, LOANACK, LOANWANT, the drive of the
memory lines, MDO, and the levels of a transmit line. Each follows the state it is computed from in the same event. -/

namespace Sys2Proof.Machine

/-- Event bit n (R175): the six classes, REFERENCE, SWEEP. -/
def State.eventBit (s : State) (n : Nat) : Bool :=
  if n < 6 then (s.classState n).pending else if n = 6 then s.mgmt.reference else if n = 7 then s.mgmt.sweep else false

/-- The eight pending event bits as a byte (R175). -/
def State.eventBits (s : State) : Byte :=
  BitVec.ofBool (s.eventBit 7) ++ BitVec.ofBool (s.eventBit 6) ++ BitVec.ofBool (s.eventBit 5) ++
    BitVec.ofBool (s.eventBit 4) ++ BitVec.ofBool (s.eventBit 3) ++ BitVec.ofBool (s.eventBit 2) ++
    BitVec.ofBool (s.eventBit 1) ++ BitVec.ofBool (s.eventBit 0)

/-- MIRQ is driven low: a bit is set both among the pending bits and in the mask (R175); it is high while RSTN is low
(R170). -/
def State.mirqLow (s : State) : Bool := s.up && (s.eventBits &&& s.mgmt.irqMask) != 0

/-- LOANACK is asserted (section 3.5). -/
def State.loanAck (s : State) : Bool := decide (s.loan = .granted)

/-- LOANWANT is asserted: GRANTED, and a port has a candidate (R51). -/
def State.loanWant (s : State) : Bool :=
  decide (s.loan = .granted) && ((s.candidate .a).isSome || (s.candidate .b).isSome)

/-- The part drives its memory lines (R50, R52, R54). -/
def State.drivesMemory (s : State) : Bool := s.up && decide (s.loan ≠ .granted)

/-- The level of channel c's transmit line while no message is on it, true for mark (R153): mark while RSTN is low, the
park level of a resting channel, and otherwise mark, in the polarity in force. -/
def State.txIdleMark (s : State) (c : Nat) : Bool :=
  if s.up then
    match (s.chan c).state with
    | .stopped => (s.chan c).parkhi
    | .listening => (s.chan c).parkhi
    | .starting => !(s.chan c).txInverted
    | .running => !(s.chan c).txInverted
    | .lost => !(s.chan c).txInverted
  else true

/-- The levels channel c's transmit line takes for the message on it, one every half µs, bit after bit with no gap; the level
it idles at with none, and mark while RSTN is low (R153). -/
def State.txLevels (s : State) (c : Nat) : List Bool :=
  match s.up, (s.chan c).tx with
  | true, some m => (m.bytes.flatMap lineBits).map fun bit => bit != (s.chan c).txInverted
  | _, _ => [s.txIdleMark c]

/-- What MDO carries in the next byte, most significant bit first: nothing while MCS is high or RSTN is low, when MDO is not
driven (R169, R170); the status byte and the data once the command has executed, and 0x00 before it and after them.
DESIGN CHOICE (log entry 27): MDO is not driven in an idle port with MCS low either, as when MCS is low already as RSTN
rises; the spec speaks of MCS high and of RSTN low. -/
def State.mdo (s : State) : Option Byte :=
  match s.mgmt.spi with
  | .idle => none
  | .transaction _ none => some 0
  | .transaction _ (some out) => some (out.headD 0)

end Sys2Proof.Machine
end

