-- ==== Sys2Proof/Machine/Management.lean ====
section
/-! DEFINITION. The management port (12): transactions, and the commands that execute at their last argument byte. -/

namespace Sys2Proof.Machine

/-! ### Transactions (R169, R170) -/

/-- The bytes of a command arrive. Where they complete the command that the bytes held are the beginning of, it executes at
the last of them: its effect, and the bytes the part is to shift out, the status byte first. Behind a command executed
already they are ignored, and as many bytes are shifted out. With the port idle its lines carry no byte (R169). -/
def State.runCommand (s : State) (bytes : List Byte) (run : State → State × List Byte) : State :=
  match s.mgmt.spi with
  | .idle => s
  | .transaction held none =>
    if held.isPrefixOf bytes && decide (held.length < bytes.length) then
      let (t, reply) := run s
      { t with mgmt := { t.mgmt with spi := .transaction bytes (some reply) } }
    else s
  | .transaction held (some out) =>
    { s with mgmt := { s.mgmt with spi := .transaction held (some (out.drop bytes.length)) } }

/-- A command refused with a status and nothing changed (R171). -/
def State.refuse (s : State) (status : Byte) : State × List Byte := (s, [status])

/-- A byte arrives that is not the last of a command with a row of its own (R169, R170): held where its command's argument
bytes are still to come; an unknown command, refused, as the first with a code that is not in the table; ignored behind a
command executed. A byte that completes a command is the event of that command's row, and is not taken here (log entry
14). -/
def State.unknownByte (s : State) (b : Byte) : State :=
  match s.mgmt.spi with
  | .idle => s
  | .transaction held none =>
    if commandOf none (held ++ [b]) = none then
      { s with mgmt := { s.mgmt with spi := .transaction (held ++ [b]) none } }
    else if argumentBytes b = none then s.runCommand [b] fun x => x.refuse statusCode
    else s
  | .transaction _ (some _) => s.runCommand [b] fun x => x.refuse statusCode

/-! ### Codes of the reads (section 12.3) -/

def Device.number : Device → Byte
  | .inReset => 0
  | .selftest => 1
  | .operating => 2
  | .halted => 3

def RefState.number : RefState → Byte
  | .absent => 0
  | .locked => 1
  | .flywheel => 2

def Loan.number : Loan → Byte
  | .none => 0
  | .requested => 1
  | .granted => 2

def Sweep.number : Sweep → Byte
  | .idle => 0
  | .running _ _ => 1
  | .ending => 2

def ChannelState.number : ChannelState → Byte
  | .stopped => 0
  | .listening => 1
  | .starting => 2
  | .running => 3
  | .lost => 4

def Origin.number : Origin → Byte
  | .portA => 0
  | .portB => 1
  | .fetch => 2
  | .channel => 3
  | .reference => 4
  | .selftest => 5

def TileState.kindNumber : TileState → Byte
  | .unassigned => 0
  | .known _ => 1
  | .unknown => 2

/-- A location in three bytes (R173). -/
def Location.bytes : Location → List Byte
  | .absent => absent3
  | .word a => bytes3 (a.setWidth 24)
  | .channel c => bytes3 (BitVec.ofNat 24 c)

/-! ### The reads (R172, R173) -/

/-- IDENTIFY's eight bytes (R172). -/
def identifyData (p : Straps) : List Byte :=
  [Config.vendor] ++ bytes2 Config.partCode ++ [Config.revision, p.xbase, p.nbase,
    BitVec.ofBool p.eccen ++ BitVec.ofBool p.post ++ p.ssel ++ p.lsel ++ p.dsel,
    BitVec.ofNat 6 0 ++ BitVec.ofBool p.bist ++ BitVec.ofBool p.aparen]

/-- How many shadow entries satisfy a test, over both regions (R6). -/
def State.countQuality (s : State) (onRoute : Quality Route → Bool) (onName : Quality (BitVec 32) → Bool) : Nat :=
  (s.shadow.crosspoints.filter fun p => onRoute p.2).length + (s.shadow.names.filter fun p => onName p.2).length

def Quality.isUnverified {α : Type} : Quality α → Bool
  | .unverified _ => true
  | .unknown => false
  | .suspect => false
  | .verified _ => false

def Quality.isVerified {α : Type} : Quality α → Bool
  | .verified _ => true
  | .unknown => false
  | .suspect => false
  | .unverified _ => false

def Quality.isSuspect {α : Type} : Quality α → Bool
  | .suspect => true
  | .unknown => false
  | .unverified _ => false
  | .verified _ => false

/-- READ STATUS's 32 bytes (R172). The UNKNOWN entries are those of D·L + 2·S in no other quality. -/
def State.statusData (s : State) : List Byte :=
  let unverified := s.countQuality Quality.isUnverified Quality.isUnverified
  let verified := s.countQuality Quality.isVerified Quality.isVerified
  let suspect := s.countQuality Quality.isSuspect Quality.isSuspect
  let total := Straps.xpLen s.straps + Straps.nameLen s.straps
  [s.device.number, s.frame.state.number] ++ bytes4 s.frame.count ++ bytes2Of s.frame.noise ++
    [s.loan.number, s.fetch.sweep.number] ++ s.fetch.sweep.location.bytes ++
    bytes2Of (total - (unverified + verified + suspect)) ++ bytes2Of unverified ++ bytes2Of verified ++
    bytes2Of suspect ++ [byteOf s.fetch.reread.length, byteOf s.gather.takeQueue.length] ++
    bytes2Of s.gather.dirty.length ++ bytes2Of s.gather.late ++ bytes2Of s.gather.bounced ++
    [byteOf s.portA.queue.length, byteOf s.portB.queue.length, s.eventBits]

/-- READ FAULT's ten bytes for a class (R173). -/
def ClassState.faultData (st : ClassState) : List Byte :=
  match st.capture with
  | some c =>
    [1, c.kind.code, c.origin.number] ++ c.location.bytes ++ bytes2 c.tag ++ bytes2Of st.count
  | none => [0, 0, 0] ++ absent3 ++ [0, 0, 0, 0]

/-- A tile state's kind, source and protect (R173). -/
def TileState.fields : TileState → List Byte
  | .known r => [1] ++ bytes2 (r.source.setWidth 16) ++ [flagByte r.protect]
  | .unassigned => [0, 0, 0, 0]
  | .unknown => [2, 0, 0, 0]

/-- READ TILE's 18 bytes (R173). -/
def Channel.tileData (ch : Channel) (t : Nat) : List Byte :=
  let x := ch.tile t
  (match x.assignment with
    | some e => [1, byteOf e.level] ++ bytes2Of e.dest
    | none => [0, 0, 0, 0]) ++
  x.current.fields ++ bytes4 x.take ++ x.lastSent.fields ++
  [flagByte (ch.queued t), flagByte (ch.queue.any fun n => n.tile == t && n.label)]

/-- The last STATUS record's seven bytes (R173); of the flags the record holds the hold flag, bit 0 (R155, R157). -/
def statusRecordData : Option StatusRecord → List Byte
  | some r => [1] ++ bytes2 r.tag ++ bytes2 r.digest ++ [flagByte r.hold, r.capacity]
  | none => [0, 0, 0, 0, 0, 0, 0]

/-- READ CHANNEL's 40 bytes (R173); the debt in two's complement. -/
def Channel.channelData (ch : Channel) : List Byte :=
  [ch.state.number, byteOf ch.queue.length, byteOf ch.slots,
    (match ch.cursor with
      | some k => byteOf k
      | none => 0xFF),
    flagByte ch.forced, BitVec.ofInt 8 ch.debt] ++
  bytes2Of ch.ticks ++ bytes2Of ch.digest ++
  [byteOf ch.mismatch, byteOf ch.helloCount,
    BitVec.ofNat 5 0 ++ BitVec.ofBool ch.hold ++ BitVec.ofBool ch.heard ++ BitVec.ofBool ch.helloPending,
    byteOf ch.missing, byteOf ch.heldFrames] ++
  statusRecordData ch.lastStatus ++ bytes2Of ch.statusCount ++ bytes2Of ch.returnErrors ++
  bytes2Of ch.frameCount ++ bytes2Of ch.changeCount ++ bytes2Of ch.superseded ++ bytes2Of ch.droppedEqual ++
  bytes2Of ch.refreshNotices ++ bytes2Of ch.refreshes ++ bytes2Of ch.staleCount

/-! ### Events and parameters (R80, R174, R175) -/

/-- CLEAR EVENTS with a mask (R80, R175). -/
def State.clearMasked (s : State) (mask : Byte) : State :=
  { s with
    faults := Table.tabulate ClassState.clear 6 fun n =>
      if mask.getLsbD n then ClassState.clear else s.classState n
    mgmt := { s.mgmt with
      reference := s.mgmt.reference && !mask.getLsbD 6
      sweep := s.mgmt.sweep && !mask.getLsbD 7 } }

/-- The stored value of a parameter (R174). -/
def State.paramValue (s : State) (p : Param) (c : Nat) : Nat :=
  match p with
  | .p0 => s.params.p0
  | .ls => s.params.ls
  | .tm => s.params.tm
  | .ta => s.params.ta
  | .tc => (s.chan c).tc
  | .budget => (s.chan c).budget
  | .interval => (s.chan c).interval
  | .options => (s.chan c).options.toNat

/-- A parameter stored (R174). -/
def State.storeParam (s : State) (p : Param) (c v : Nat) (byteOnLine : Option Bool) : State :=
  match p with
  | .p0 => { s with params := { s.params with p0 := v } }
  | .ls => { s with params := { s.params with ls := v } }
  | .tm => { s with params := { s.params with tm := v } }
  | .ta => { s with params := { s.params with ta := v } }
  | .tc => s.setChan c { s.chan c with tc := v }
  | .budget => s.setChan c { s.chan c with budget := v }
  | .interval => s.setChan c { s.chan c with interval := v }
  | .options => s.setChan c ((s.chan c).setOptions (BitVec.ofNat 5 v) byteOnLine)

/-- A value of Tc at or below the number of an assigned tile (R174). -/
def Channel.tcBlocked (ch : Channel) (v : Nat) : Bool :=
  (List.range Config.tilesPerChannel).any fun t => decide (v ≤ t) && (ch.tile t).assignment.isSome

/-- SET PARAM's checks and effect (R174). -/
def State.runSetParam (s : State) (number chan : Byte) (value : BitVec 16) (byteOnLine : Option Bool) : State × List Byte :=
  match paramOf number with
  | none => s.refuse statusRange
  | some p =>
    if p.perChannel && decide (15 < chan.toNat) then s.refuse statusRange
    else
      let v := p.clamp value.toNat
      if p = .tc ∧ (s.chan chan.toNat).tcBlocked v = true then s.refuse statusState
      else (s.storeParam p chan.toNat v byteOnLine, [if v = value.toNat then statusDone else statusClamped])

/-- GET PARAM's checks and data (R174). -/
def State.runGetParam (s : State) (number chan : Byte) : State × List Byte :=
  match paramOf number with
  | none => s.refuse statusRange
  | some p =>
    if p.perChannel && decide (15 < chan.toNat) then s.refuse statusRange
    else (s, statusDone :: bytes2Of (s.paramValue p chan.toNat))

/-! ### Subscriptions (R112 to R115) -/

/-- ASSIGN's effect (R113): the assignment, which moves the slot's pair in the index, the on-air value with take number F,
and the append. -/
def State.assignTile (s : State) (c t : Nat) (e : Crosspoint) : State :=
  (s.setChan c ((s.chan c).setTile t { (s.chan c).tile t with
    assignment := some e, current := (s.onAir (.crosspoint e)).tileState, take := s.frame.count })).enqueue c t false

/-- ASSIGN's range check fails (R112). -/
def State.assignOutOfRange (s : State) (chan tile level : Byte) (dest : BitVec 16) : Bool :=
  decide (15 < chan.toNat ∨ (s.chan chan.toNat).tc ≤ tile.toNat ∨ Straps.levels s.straps ≤ level.toNat ∨
    Straps.dests s.straps ≤ dest.toNat)

/-- ASSIGN's checks and effect (R112, R113). -/
def State.runAssign (s : State) (chan tile level : Byte) (dest : BitVec 16) : State × List Byte :=
  if s.assignOutOfRange chan tile level dest then s.refuse statusRange
  else if s.device = .halted then s.refuse statusState
  else (s.assignTile chan.toNat tile.toNat { level := level.toNat, dest := dest.toNat }, [statusDone])

/-- UNASSIGN's effect (R115). -/
def State.unassignTile (s : State) (c t : Nat) : State :=
  (s.setChan c ((s.chan c).setTile t { (s.chan c).tile t with
    assignment := none, current := .unassigned, take := s.frame.count })).enqueue c t false

/-- UNASSIGN's checks and effect (R115). -/
def State.runUnassign (s : State) (chan tile : Byte) : State × List Byte :=
  if 15 < chan.toNat ∨ (s.chan chan.toNat).tc ≤ tile.toNat then s.refuse statusRange
  else if ((s.chan chan.toNat).tile tile.toNat).assignment = none then s.refuse statusState
  else (s.unassignTile chan.toNat tile.toNat, [statusDone])

/-! ### Channels (R160, R166) -/

/-- A resting channel started at time `now` (R160, and R168 for one that was LISTENING). -/
def Channel.start (ch : Channel) (now : Nat) : Channel :=
  match ch.state with
  | .stopped => { ch with state := .starting, helloCount := 0, helloPending := false, startedAt := none }
  | .listening => { ch with state := .starting, helloCount := 0, helloPending := false, startedAt := some now }
  | .starting => ch
  | .running => ch
  | .lost => ch

/-- START CHANNELS (R160). -/
def State.runStart (s : State) (mask : BitVec 16) : State × List Byte :=
  if s.device = .halted then s.refuse statusState
  else (s.mapChans fun c ch => if mask.getLsbD c then ch.start s.now else ch, [statusDone])

/-- STOP CHANNELS (R166). -/
def State.stopMasked (s : State) (mask : BitVec 16) : State :=
  s.mapChans fun c ch => if mask.getLsbD c then ch.stopEffects else ch

/-! ### RESYNC and SOFT RESET (R176, R177) -/

/-- RESYNC (R176). -/
def State.runResync (s : State) : State × List Byte :=
  if s.device = .selftest then s.refuse statusState
  else (({ s with shadow := s.shadow.downgrade }).restartSweep, [statusDone])

/-- A tile at SOFT RESET: unknown if assigned, with take number F (R122). -/
def Tile.softReset (x : Tile) (f : BitVec 32) : Tile :=
  { x with current := if x.assignment.isSome then .unknown else .unassigned, take := f }

/-- SOFT RESET's effect (R177). -/
def State.softReset (s : State) : State :=
  let emptied := { s with
    shadow := { crosspoints := [], names := [] }
    memPort := { s.memPort with
      inflight := s.memPort.inflight.map fun (e : Access) => if e.region = Region.outside then e else Access.stale e }
    fetch := { sweep := .idle, reread := [] }
    gather := { dirty := [], takeQueue := [], late := 0, bounced := 0 }
    fanout := none
    faults := []
    mgmt := { s.mgmt with reference := false, sweep := false } }
  (emptied.mapChans fun _ ch => (ch.mapTiles fun x => x.softReset s.frame.count).stopEffects).restartSweep

/-! ### The commands -/

/-- TRANSACTION_BEGIN (R169): MCS falls while the port is idle. -/
def execTransactionBegin (s : State) : Host.Outcome State Fault Refusal :=
  .next (if s.up = true ∧ s.mgmt.spi = .idle then { s with mgmt := { s.mgmt with spi := .transaction [] none } } else s)

/-- TRANSACTION_END (R169, R170): MCS rises. -/
def execTransactionEnd (s : State) : Host.Outcome State Fault Refusal :=
  .next (if s.up then { s with mgmt := { s.mgmt with spi := .idle } } else s)

/-- UNKNOWN_COMMAND (R170). -/
def execUnknownCommand (code : Byte) (s : State) : Host.Outcome State Fault Refusal :=
  .next (if s.up then s.unknownByte code else s)

/-- IDENTIFY (R172). -/
def execIdentify (s : State) : Host.Outcome State Fault Refusal :=
  .next (if s.up then s.runCommand [0x01] fun x => (x, statusDone :: identifyData x.straps) else s)

/-- READ_STATUS (R172). -/
def execReadStatus (s : State) : Host.Outcome State Fault Refusal :=
  .next (if s.up then s.runCommand [0x02] fun x => (x, statusDone :: x.statusData) else s)

/-- READ_FAULT (R171, R173, R83). -/
def execReadFault (cls : Byte) (s : State) : Host.Outcome State Fault Refusal :=
  .next (if s.up then s.runCommand [0x03, cls] fun x =>
    if 5 < cls.toNat then x.refuse statusRange else (x, statusDone :: (x.classState cls.toNat).faultData) else s)

/-- CLEAR_EVENTS (R80, R175). -/
def execClearEvents (mask : Byte) (s : State) : Host.Outcome State Fault Refusal :=
  .next (if s.up then s.runCommand [0x04, mask] fun x => (x.clearMasked mask, [statusDone]) else s)

/-- SET_IRQ_MASK (R175). -/
def execSetIrqMask (mask : Byte) (s : State) : Host.Outcome State Fault Refusal :=
  .next (if s.up then s.runCommand [0x05, mask] fun x =>
    ({ x with mgmt := { x.mgmt with irqMask := mask } }, [statusDone]) else s)

/-- SET_PARAM (R174). -/
def execSetParam (number chan : Byte) (value : BitVec 16) (byteOnLine : Option Bool) (s : State) :
    Host.Outcome State Fault Refusal :=
  .next (if s.up then s.runCommand ([0x10, number, chan] ++ bytes2 value) fun x =>
    x.runSetParam number chan value byteOnLine else s)

/-- GET_PARAM (R174). -/
def execGetParam (number chan : Byte) (s : State) : Host.Outcome State Fault Refusal :=
  .next (if s.up then s.runCommand [0x11, number, chan] fun x => x.runGetParam number chan else s)

/-- ASSIGN (R112, R113). -/
def execAssign (chan tile level : Byte) (dest : BitVec 16) (s : State) : Host.Outcome State Fault Refusal :=
  .next (if s.up then s.runCommand ([0x20, chan, tile, level] ++ bytes2 dest) fun x =>
    x.runAssign chan tile level dest else s)

/-- UNASSIGN (R115). -/
def execUnassign (chan tile : Byte) (s : State) : Host.Outcome State Fault Refusal :=
  .next (if s.up then s.runCommand [0x21, chan, tile] fun x => x.runUnassign chan tile else s)

/-- READ_TILE (R171, R173). -/
def execReadTile (chan tile : Byte) (s : State) : Host.Outcome State Fault Refusal :=
  .next (if s.up then s.runCommand [0x22, chan, tile] fun x =>
    if 15 < chan.toNat ∨ 63 < tile.toNat then x.refuse statusRange
    else (x, statusDone :: (x.chan chan.toNat).tileData tile.toNat) else s)

/-- START_CHANNELS (R160). -/
def execStartChannels (mask : BitVec 16) (s : State) : Host.Outcome State Fault Refusal :=
  .next (if s.up then s.runCommand ([0x30] ++ bytes2 mask) fun x => x.runStart mask else s)

/-- STOP_CHANNELS (R166). -/
def execStopChannels (mask : BitVec 16) (s : State) : Host.Outcome State Fault Refusal :=
  .next (if s.up then s.runCommand ([0x31] ++ bytes2 mask) fun x => (x.stopMasked mask, [statusDone]) else s)

/-- READ_CHANNEL (R171, R173). -/
def execReadChannel (chan : Byte) (s : State) : Host.Outcome State Fault Refusal :=
  .next (if s.up then s.runCommand [0x32, chan] fun x =>
    if 15 < chan.toNat then x.refuse statusRange
    else (x, statusDone :: (x.chan chan.toNat).channelData) else s)

/-- RESYNC (R176). -/
def execResync (s : State) : Host.Outcome State Fault Refusal :=
  .next (if s.up then s.runCommand [0x40] fun x => x.runResync else s)

/-- SOFT_RESET (R177). -/
def execSoftReset (s : State) : Host.Outcome State Fault Refusal :=
  .next (if s.up then s.runCommand [0x7E] fun x => (x.softReset, [statusDone]) else s)

end Sys2Proof.Machine
end

