-- ==== Sys2Proof/Machine/Reset.lean ====
section
/-! DEFINITION. RSTN, strap sampling, self-test and start-up checks (04 sections 4.1 to 4.3, and the reset rules of every
chapter). -/

namespace Sys2Proof.Machine

/-- The part held in reset: every block at its reset values (R18, R35, R37, R54, R69, R94, R107, R123, R127, R170). The
level of LOANREQ, an input, and the queue of commands are kept. -/
def State.heldInReset (s : State) : State := { State.reset with loanReq := s.loanReq, pending := s.pending }

/-- The end of start-up (R57, R58): HALT 0x50 for a failed self-test and then HALT 0x51 for overlapping regions, each
making the part HALTED; OPERATING otherwise; the tracker live and the sweep at its first word. -/
def State.endStartUp (s : State) (pass : Bool) : State :=
  let started := { s with device := .operating }
  let tested := if pass then started else started.recordHalt .selftestFailure .absent
  let checked :=
    if Straps.overlap s.straps then
      tested.recordHalt .regionOverlap (.word (BitVec.ofNat 22 (Straps.xpBase s.straps)))
    else tested
  checked.restartSweep

/-- LOANREQ found asserted as RSTN rises is taken as a request (R54). -/
def State.takeStandingLoan (s : State) : State := if s.loanReq then s.loanAsked else s

/-- The channel units as RSTN rises, each at its reset values with its return line as found (R154, R158). -/
def risenChannels (lines : BitVec 16) : Table Channel :=
  Table.tabulate Channel.reset Config.channels fun c => { Channel.reset with rxWire := lines.getLsbD c }

/-- RSTN rises (R55, R57, R58, R94): straps sampled, reset values taken, SELFTEST entered or the start-up checks made, a
standing LOANREQ taken. -/
def State.riseWith (s : State) (pins : Pins) : State :=
  let sampled := { s.heldInReset with straps := pins.straps, device := .selftest, chans := risenChannels pins.lines }
  (if pins.straps.bist then sampled else sampled.endStartUp true).takeStandingLoan

/-- The self-test completes (R57): the three stores are left at their reset contents, the fan-out engine idle with the empty
take queue (R116), and the start-up checks are made. -/
def State.selftestDone (s : State) (pass : Bool) : State :=
  ({ s with
      shadow := { crosspoints := [], names := [] }
      gather := { s.gather with dirty := [], takeQueue := [] }
      fanout := none }).endStartUp pass

/-- RSTN_FALL (R35). -/
def execRstnFall (s : State) : Host.Outcome State Fault Refusal := .next (if s.up then s.heldInReset else s)

/-- RSTN_RISE (R55). RSTN already high has no rise. -/
def execRstnRise (pins : Pins) (s : State) : Host.Outcome State Fault Refusal :=
  .next (if s.up then s else s.riseWith pins)

/-- SELFTEST_COMPLETION (R57). -/
def execSelftestCompletion (pass : Bool) (s : State) : Host.Outcome State Fault Refusal :=
  .next (if s.device = .selftest then s.selftestDone pass else s)

end Sys2Proof.Machine
end

