-- ==== Sys2Proof/Machine/Dispatch.lean ====
section
/-! DEFINITION. The dispatch: one arm per command, each a direct call of its meaning. -/

namespace Sys2Proof.Machine

def exec (i : Instr) (s : State) : Host.Outcome State Fault Refusal :=
  match i with
  | .rstnFall => Sys2Proof.Machine.execRstnFall s
  | .rstnRise pins => Sys2Proof.Machine.execRstnRise pins s
  | .selftestCompletion pass => Sys2Proof.Machine.execSelftestCompletion pass s
  | .controlRequest port req => Sys2Proof.Machine.execControlRequest port req s
  | .waitTimeout port => Sys2Proof.Machine.execWaitTimeout port s
  | .issue => Sys2Proof.Machine.execIssue s
  | .readCompletion data check => Sys2Proof.Machine.execReadCompletion data check s
  | .writeCompletion => Sys2Proof.Machine.execWriteCompletion s
  | .memoryTimeout => Sys2Proof.Machine.execMemoryTimeout s
  | .loanRequest => Sys2Proof.Machine.execLoanRequest s
  | .loanGrant => Sys2Proof.Machine.execLoanGrant s
  | .loanEnd => Sys2Proof.Machine.execLoanEnd s
  | .loanWithdrawal => Sys2Proof.Machine.execLoanWithdrawal s
  | .refinPulse => Sys2Proof.Machine.execRefinPulse s
  | .freeRunningSwitchPoint => Sys2Proof.Machine.execFreeRunningSwitchPoint s
  | .windowExpiry => Sys2Proof.Machine.execWindowExpiry s
  | .statusLost chan => Sys2Proof.Machine.execStatusLost chan s
  | .endpointStalled chan => Sys2Proof.Machine.execEndpointStalled chan s
  | .debtTick chan => Sys2Proof.Machine.execDebtTick chan s
  | .startingTimeout chan => Sys2Proof.Machine.execStartingTimeout chan s
  | .crosspointVisit => Sys2Proof.Machine.execCrosspointVisit s
  | .nameChangeVisit => Sys2Proof.Machine.execNameChangeVisit s
  | .messageEnd chan => Sys2Proof.Machine.execMessageEnd chan s
  | .status chan msg => Sys2Proof.Machine.execStatus chan msg s
  | .framingError chan => Sys2Proof.Machine.execFramingError chan s
  | .unknownType chan byte => Sys2Proof.Machine.execUnknownType chan byte s
  | .returnGapExpiry chan => Sys2Proof.Machine.execReturnGapExpiry chan s
  | .transactionBegin => Sys2Proof.Machine.execTransactionBegin s
  | .transactionEnd => Sys2Proof.Machine.execTransactionEnd s
  | .unknownCommand code => Sys2Proof.Machine.execUnknownCommand code s
  | .identify => Sys2Proof.Machine.execIdentify s
  | .readStatus => Sys2Proof.Machine.execReadStatus s
  | .readFault cls => Sys2Proof.Machine.execReadFault cls s
  | .clearEvents mask => Sys2Proof.Machine.execClearEvents mask s
  | .setIrqMask mask => Sys2Proof.Machine.execSetIrqMask mask s
  | .setParam number chan value byteOnLine => Sys2Proof.Machine.execSetParam number chan value byteOnLine s
  | .getParam number chan => Sys2Proof.Machine.execGetParam number chan s
  | .assign chan tile level dest => Sys2Proof.Machine.execAssign chan tile level dest s
  | .unassign chan tile => Sys2Proof.Machine.execUnassign chan tile s
  | .readTile chan tile => Sys2Proof.Machine.execReadTile chan tile s
  | .startChannels mask => Sys2Proof.Machine.execStartChannels mask s
  | .stopChannels mask => Sys2Proof.Machine.execStopChannels mask s
  | .readChannel chan => Sys2Proof.Machine.execReadChannel chan s
  | .resync => Sys2Proof.Machine.execResync s
  | .softReset => Sys2Proof.Machine.execSoftReset s
  | .lineReturnedToMark chan => Sys2Proof.Machine.execLineReturnedToMark chan s
  | .returnByte chan byte => Sys2Proof.Machine.execReturnByte chan byte s

end Sys2Proof.Machine
end

