-- ==== Sys2Proof/Machine/Idle.lean ====
section
/-! DEFINITION. What the part does with no command waiting (log entry 2): a request standing presented is taken, a timed event
that is due is taken, and otherwise the time base counts 1 µs. -/

namespace Sys2Proof.Machine

/-- A port's wait timer has run out (R32). -/
def State.waitDue (s : State) (p : PortId) : Bool :=
  match (s.port p).pending with
  | some ⟨_, .waiting deadline⟩ => decide (deadline ≤ s.now)
  | _ => false

/-- The oldest access in flight has passed its deadline (R42). -/
def State.memoryDue (s : State) : Bool :=
  match s.memPort.inflight with
  | [] => false
  | e :: _ => decide (e.deadline ≤ s.now)

/-- The first channel whose message has reached its end. -/
def State.messageDueChannel (s : State) : Option (Fin 16) := (List.finRange 16).find? fun c => s.messageDue c.val

/-- The timed event that is due, as the command that names it. DESIGN CHOICE (log entry 2): among several due at one time the
memory timeout comes first, then the wait timeouts, the switch point and the message ends. -/
def State.dueCommand (s : State) : Option Instr :=
  if s.memoryDue then some .memoryTimeout
  else if s.waitDue .a then some (.waitTimeout .a)
  else if s.waitDue .b then some (.waitTimeout .b)
  else if s.freeRunDue then some .freeRunningSwitchPoint
  else if s.windowDue then some .windowExpiry
  else s.messageDueChannel.map fun c => .messageEnd c

/-- A port with a request standing presented and none pending (R22), which no run reaches: an answer takes it. -/
def State.presentedDue (s : State) (p : PortId) : Bool :=
  !(s.port p).presented.isEmpty && (s.port p).pending.isNone

/-- The time base counts 1 µs (R84). -/
def State.tick (s : State) : State := { s with now := s.now + 1 }

end Sys2Proof.Machine
end

