-- ==== Sys2Proof/Machine/Step.lean ====
section
/-! DEFINITION. One step: the command at the front of the queue, or, with none waiting, what the part does on its own account
(log entry 2). -/

namespace Sys2Proof.Machine

/-- The part with no command waiting. While RSTN is low it idles: the time base does not run (R84). -/
def idle (s : State) : Host.Outcome State Fault Refusal :=
  if s.up then
    if s.presentedDue .a then .next (s.takePresented .a)
    else if s.presentedDue .b then .next (s.takePresented .b)
    else
      match s.dueCommand with
      | some c => exec c s
      | none => .next s.tick
  else .next s

/-- One step. -/
def step (s : State) : Host.Outcome State Fault Refusal :=
  match s.pending with
  | [] => idle s
  | c :: rest => exec c { s with pending := rest }

/-- The command a table word spells put at the front of the queue; the table gives no row a word, so the state is
unchanged. -/
def State.withFetchWord (s : State) (nbits w : Nat) : State :=
  match decodeTableWord nbits w with
  | some c => { s with pending := c :: s.pending }
  | none => s

end Sys2Proof.Machine
end

