-- ==== Sys2Proof/Safety.lean ====
section
/-! DEFINITION. What claims about the part speak of: which fields of State an event touches, and the conditions that hold of
the part's state at all times, each with the rule that states it. -/

namespace Sys2Proof.Machine

/-! ### What an event touches -/

/-- The fields of State. -/
inductive Field where
  | device
  | straps
  | loanReq
  | now
  | portA
  | portB
  | memPort
  | loan
  | shadow
  | fetch
  | faults
  | frame
  | gather
  | fanout
  | chans
  | params
  | mgmt
  | pending
  deriving DecidableEq, Repr

/-- Two states agree in a field. -/
def State.agree (s t : State) : Field → Prop
  | .device => t.device = s.device
  | .straps => t.straps = s.straps
  | .loanReq => t.loanReq = s.loanReq
  | .now => t.now = s.now
  | .portA => t.portA = s.portA
  | .portB => t.portB = s.portB
  | .memPort => t.memPort = s.memPort
  | .loan => t.loan = s.loan
  | .shadow => t.shadow = s.shadow
  | .fetch => t.fetch = s.fetch
  | .faults => t.faults = s.faults
  | .frame => t.frame = s.frame
  | .gather => t.gather = s.gather
  | .fanout => t.fanout = s.fanout
  | .chans => t.chans = s.chans
  | .params => t.params = s.params
  | .mgmt => t.mgmt = s.mgmt
  | .pending => t.pending = s.pending

/-- `t` differs from `s` in the listed fields at most. -/
structure State.Only (touched : List Field) (s t : State) : Prop where
  off : ∀ f, f ∉ touched → s.agree t f

/-- The field that holds a control port. -/
def PortId.field : PortId → Field
  | .a => .portA
  | .b => .portB

/-- Every channel unit but `c` is as it was. -/
def State.OtherChannels (c : Nat) (s t : State) : Prop := ∀ j, j ≠ c → t.chan j = s.chan j

/-! ### Situations and outcomes that claims name -/

/-- A port that holds no pending request, with none standing presented (R22). -/
abbrev Port.Free (pt : Port) : Prop := pt.pending = none ∧ pt.presented = []

/-- A request passes the address parity check, or the check is not made (R23). -/
abbrev State.ParityPasses (s : State) (r : Request) : Prop := s.straps.aparen = true → r.parityOdd = false

/-- An access for which a port still owes its processor an answer: a read, or a write that was not posted (R44). -/
abbrev Access.OwesAnswer (e : Access) (p : PortId) : Prop :=
  e.origin = .port p ∧ ((∃ stale, e.op = .read stale) ∨ ∃ w, e.op = .write w false)

/-- An opportunity to issue: no loan, and fewer than four accesses in flight (R38). -/
abbrev State.Opportunity (s : State) : Prop :=
  s.up = true ∧ s.loan = .none ∧ s.memPort.inflight.length < Config.inflightMax

/-- A transaction is open that has executed no command, and the bytes it holds are the beginning of a command's, short of its
last (R169). -/
def State.Awaits (s : State) (bytes : List Byte) : Prop :=
  s.up = true ∧ ∃ held, s.mgmt.spi = .transaction held none ∧ held <+: bytes ∧ held.length < bytes.length

/-- The state with a command's bytes received and its reply, the status byte first, standing to be shifted out (R169). -/
def State.replied (s : State) (received reply : List Byte) : State :=
  { s with mgmt := { s.mgmt with spi := .transaction received (some reply) } }

/-- The CHANNEL class once every channel unit has taken a switch point with frame tag `tag`, each recording the faults of its
part, in ascending order (R140, R161, R164; the order is the model's choice, log entry 10). -/
def State.channelClassAfter (s : State) (tag : BitVec 16) : ClassState :=
  (List.range Config.channels).foldl
    (fun st c => ((s.chan c).switchPoint c s.now tag).2.foldl
      (fun st k => st.record { kind := k, origin := .channel, location := .channel c, tag }) st)
    (s.classState 2)

/-- One switch point has been made from `s` to `t`: F adds 1; the gather unit has closed the gather, or kept it open, with the
new F, and an idle fan-out engine has taken the record up; every channel unit has taken it with the new tag; and the faults
of both are recorded, of class IMAGE and of class CHANNEL (R91, R92, R99, R104). -/
def State.MadeSwitchPoint (s t : State) : Prop :=
  t.frame.count = s.frame.count + 1 ∧
    (∀ g, g = State.gatherSwitchPoint { s with frame := { s.frame with count := s.frame.count + 1 } } →
      t.gather = g.gather ∧ t.fanout = g.fanout ∧ t.classState 4 = g.classState 4) ∧
    (∀ c, c < Config.channels →
      t.chan c = ((s.chan c).switchPoint c s.now ((s.frame.count + 1).extractLsb' 0 16)).1) ∧
    t.classState 2 = s.channelClassAfter ((s.frame.count + 1).extractLsb' 0 16) ∧
    ∀ n, n ≠ 2 → n ≠ 4 → t.classState n = s.classState n

/-- The re-acquire candidates once a pulse at the time base's value has joined them: the last three (R88). -/
def State.joined (s : State) : List Nat := (s.frame.candidates ++ [s.now]).drop (s.frame.candidates.length - 2)

/-- Two pulse times a frame period apart, within the half-width (R90). -/
abbrev FrameSpaced (p0 c1 c2 : Nat) : Prop := c1 + (p0 - p0 / 128) ≤ c2 ∧ c2 ≤ c1 + (p0 + p0 / 128)

/-- A pulse now finds no window open: the state is ABSENT, or E lies more than the half-width away (R86, R88). -/
abbrev State.OutsideWindow (s : State) : Prop :=
  s.frame.state = .absent ∨ s.now + s.frame.halfWidth < s.frame.expected ∨
    s.frame.expected + s.frame.halfWidth < s.now

/-- No slot decision may be taken, whatever the endpoint does: a message is on the line, a FRAME mark is pending, or no slot is
left (R131). -/
abbrev Channel.NoSlot (ch : Channel) : Prop := ch.tx.isSome = true ∨ ch.framePending.isSome = true ∨ ch.slots = 0

/-- The channel with a FRAME mark begun at time `now` (R129, R147, R155). -/
def Channel.framed (ch : Channel) (now : Nat) (tag : BitVec 16) : Channel :=
  { ch with
    tx := some { bytes := withCheck [0xA2, highByte tag, lowByte tag], endsAt := now + 20 }
    txInverted := ch.txinv
    framePending := none
    slots := ch.budget
    snapshots := (if 4 ≤ ch.snapshots.length then ch.snapshots.drop 1 else ch.snapshots) ++
      [{ tag, digest := ch.digest, comparable := ch.state == .running && !ch.forced }]
    frameCount := min (ch.frameCount + 1) 65535 }

/-- The channel numbered c with a HELLO begun at time `now` (R155, R161). -/
def Channel.helloed (ch : Channel) (c now : Nat) : Channel :=
  { ch with
    tx := some { bytes := withCheck [0xA1, BitVec.ofNat 8 c, BitVec.ofNat 8 ch.tc, 0x03], endsAt := now + 25 }
    txInverted := ch.txinv
    helloPending := false }

/-- The notice queue after an append of tile t (R126). -/
def queueAfterAppend (q : List Notice) (t : Nat) (label : Bool) : List Notice :=
  if ∃ n ∈ q, n.tile = t then q.map fun n => if n.tile = t then { n with label := n.label || label } else n
  else q ++ [{ tile := t, label }]

/-- What an event at time `now` that appends tile t leaves of a channel whose tile records it has set already, `mid`: nothing
more where the channel is resting or STARTING; the append where it is LOST, or RUNNING with no slot decision to take; and the
append with the slot decision it makes where it is RUNNING with a slot free (R119, R126, R131, R165). `names` is the label of
each tile state (R134). -/
def Channel.Appended (mid ch : Channel) (names : TileState → List Byte) (now t : Nat) (label : Bool) : Prop :=
  (mid.state ≠ .running → mid.state ≠ .lost → ch = mid) ∧
    ∀ longer, longer = { mid with
        queue := queueAfterAppend mid.queue t label
        superseded := if ∃ n ∈ mid.queue, n.tile = t then min (mid.superseded + 1) 65535 else mid.superseded } →
      (mid.state = .lost → ch = longer) ∧
      (mid.state = .running → mid.hold = true ∨ mid.NoSlot → ch = longer) ∧
      (mid.state = .running → mid.hold = false → ¬ mid.NoSlot → ch = longer.slotDecision names now)

/-- The flags and the source field of a NOTICE for a tile state: bit 0 protect, bit 1 unknown, bit 2 unassigned, bit 3
refresh (R133, R155). -/
def noticeFields (state : TileState) (refresh : Bool) : List Byte :=
  match state with
  | .unassigned => [if refresh then 0x0C else 0x04, 0, 0]
  | .unknown => [if refresh then 0x0A else 0x02, 0, 0]
  | .known r =>
    [match r.protect, refresh with
      | false, false => 0x00
      | true, false => 0x01
      | false, true => 0x08
      | true, true => 0x09] ++ bytes2 (r.source.setWidth 16)

/-- The channel with a NOTICE for tile t begun at time `now`: the bytes from the tile record and the label, last-sent made
current, the digest moved and a slot used (R133, R146, R153, R155). `names` is the label of each tile state (R134). -/
def Channel.noticed (ch : Channel) (names : TileState → List Byte) (now t : Nat) (refresh : Bool) : Channel :=
  { ch.setTile t { ch.tile t with lastSent := (ch.tile t).current } with
    tx := some
      { bytes := withCheck ([0xA3, BitVec.ofNat 8 t] ++ noticeFields (ch.tile t).current refresh ++
          bytes2 ((ch.tile t).take.extractLsb' 0 16) ++ names (ch.tile t).current)
        endsAt := now + 80 }
    txInverted := ch.txinv
    digest := (ch.digest + (t + 1) * (ch.tile t).current.word + 65521 -
      ((t + 1) * (ch.tile t).lastSent.word) % 65521) % 65521
    slots := ch.slots - 1 }

/-- A refresh step: the refresh NOTICE for tile t begun, the cursor past it, the NOTICE counted (R144). -/
def Channel.refreshed (ch : Channel) (names : TileState → List Byte) (now t : Nat) : Channel :=
  { ch.noticed names now t true with cursor := some (t + 1), refreshNotices := min (ch.refreshNotices + 1) 65535 }

/-- No tile from the cursor on is assigned and not queued: a refresh step finds none to send (R144). -/
abbrev Channel.RefreshDone (ch : Channel) : Prop :=
  ∀ j, j < ch.tc → ch.cursor.getD 0 ≤ j → (ch.tile j).assignment = none ∨ ∃ n ∈ ch.queue, n.tile = j

/-- A refresh completed: the debt 1 lower but not below −8, nothing forced or in progress, the refresh counted (R145). -/
def Channel.refreshEnded (ch : Channel) : Channel :=
  { ch with
    debt := if -8 < ch.debt then ch.debt - 1 else ch.debt
    forced := false
    cursor := none
    refreshes := min (ch.refreshes + 1) 65535 }

/-- The items of some of a record's changes have no visit to make, as the tiles stand (R116 to R118). -/
abbrev State.NoVisit (s : State) (items : List (Entry × Value)) : Prop := ∀ p ∈ items, s.nextVisit p.1 none = none

/-- Where the engine stands once the item numbered `item` of record r, with the records `rest` behind it, has had its last
visit, `u` being the state the visit leaves: at the next item of r with a visit to make; where none is left in r, at the first
item with one of the first record behind that has one, the records before it finished; where no record behind has one, idle,
with the take queue empty (R102, R116; that all of it is one event is log entry 18's). -/
def State.MovesOn (s u : State) (r : TakeRecord) (rest : List TakeRecord) (item : Nat) : Prop :=
  (∀ between e v later, r.changes.drop (item + 1) = between ++ (e, v) :: later → u.NoVisit between →
    (u.nextVisit e none).isSome = true →
    u.fanout = some { item := item + 1 + between.length, position := none } ∧ u.gather = s.gather) ∧
  (u.NoVisit (r.changes.drop (item + 1)) →
    (∀ skipped next behind before e v later, rest = skipped ++ next :: behind →
      (∀ x ∈ skipped, u.NoVisit x.changes) → next.changes = before ++ (e, v) :: later → u.NoVisit before →
      (u.nextVisit e none).isSome = true →
      u.fanout = some { item := before.length, position := none } ∧
        u.gather = { s.gather with takeQueue := next :: behind }) ∧
    ((∀ x ∈ rest, u.NoVisit x.changes) → u.fanout = none ∧ u.gather = { s.gather with takeQueue := [] }))

/-- An entry the part tracks under its straps (R2). -/
def State.Tracks (s : State) : Entry → Prop
  | .crosspoint e => e.level < Straps.levels s.straps ∧ e.dest < Straps.dests s.straps
  | .source n => n < Straps.sources s.straps

/-- A word with one of its 39 bits inverted: data bit n below 32, check bit n - 32 from there on. -/
def flipBit (word : BitVec 32 × BitVec 7) (n : Nat) : BitVec 32 × BitVec 7 :=
  if n < 32 then (word.1 ^^^ BitVec.twoPow 32 n, word.2) else (word.1, word.2 ^^^ BitVec.twoPow 7 (n - 32))

/-! ### Conditions of the part's state -/

/-- The three items of a fault class stand together, and the counter is one of 16 bits (R75). -/
abbrev ClassState.Consistent (st : ClassState) : Prop :=
  (st.pending = true ↔ st.capture.isSome = true) ∧ (st.pending = true ↔ 1 ≤ st.count) ∧ st.count ≤ Config.countMax

/-- Every fault class is consistent (R75). -/
abbrev State.FaultsConsistent (s : State) : Prop := ∀ n, n < 6 → (s.classState n).Consistent

/-- At most four accesses are in flight (R37); none is in a granted loan, and some is while a loan request waits (R49,
R50). -/
abbrev State.BusSound (s : State) : Prop :=
  s.memPort.inflight.length ≤ Config.inflightMax ∧ (s.loan = .granted → s.memPort.inflight = []) ∧
    (s.loan = .requested → s.memPort.inflight ≠ [])

/-- The posting depth of the ports (R27, R55). -/
def State.postingDepth (s : State) : Nat := if s.straps.post then Config.postedDepth else 0

/-- Requests stand presented only behind a pending one: each is taken when the one before it is answered (R22). -/
abbrev State.RequestsInTurn (s : State) : Prop := ∀ p, (s.port p).pending = none → (s.port p).presented = []

/-- No posted-write queue is longer than the posting depth (R27). -/
abbrev State.QueuesWithinDepth (s : State) : Prop :=
  s.portA.queue.length ≤ s.postingDepth ∧ s.portB.queue.length ≤ s.postingDepth

/-- A channel rests in STOPPED or LISTENING. -/
abbrev Channel.Resting (ch : Channel) : Prop := ch.state = .stopped ∨ ch.state = .listening

/-- In HALTED every channel rests (R167). -/
abbrev State.HaltedRests (s : State) : Prop := s.device = .halted → ∀ c, c < Config.channels → (s.chan c).Resting

/-- A channel's Tc is in its range (R174), its notice queue holds tiles of the channel and none twice (R126), and its digest is
the sum over its last-sent words (R146). -/
abbrev Channel.DigestSound (ch : Channel) : Prop :=
  ch.tc ≤ Config.tilesPerChannel ∧ (∀ n ∈ ch.queue, n.tile < Config.tilesPerChannel) ∧
    (ch.queue.map Notice.tile).Nodup ∧ ch.digest = ch.digestSum

/-- Every channel's queue and digest are sound (R126, R146). -/
abbrev State.DigestsSound (s : State) : Prop := ∀ c, c < Config.channels → (s.chan c).DigestSound

/-- The refresh debt and the counts of the link stay in the ranges their tables give (R139, R140, R158); a channel in RUNNING
has missed fewer than four STATUS messages in a row (R164). -/
abbrev Channel.CountsInRange (ch : Channel) : Prop :=
  -8 ≤ ch.debt ∧ ch.debt ≤ 8 ∧ ch.mismatch ≤ 1 ∧ ch.snapshots.length ≤ Config.snapshotMax ∧
    ch.helloCount ≤ Config.helloMax ∧ ch.missing ≤ Config.missingMax ∧ ch.heldFrames ≤ Config.heldMax ∧
    (ch.state = .running → ch.missing < Config.missingMax)

/-- Every channel's counts are in range. -/
abbrev State.CountsInRange (s : State) : Prop := ∀ c, c < Config.channels → (s.chan c).CountsInRange

/-- A channel in STOPPED, LISTENING or STARTING has no debt, no refresh, a clear forced flag, digest 0 and no snapshots (R139),
and its notice queue, slot count and pending FRAME mark are as the stop effects leave them (R137, R160). -/
abbrev Channel.QuietOffAir (ch : Channel) : Prop :=
  ch.state ≠ .running → ch.state ≠ .lost →
    ch.ticks = 0 ∧ ch.debt = 0 ∧ ch.forced = false ∧ ch.cursor = none ∧ ch.digest = 0 ∧ ch.snapshots = [] ∧
      ch.queue = [] ∧ ch.slots = 0 ∧ ch.framePending = none

/-- Every channel that is off the air is quiet. -/
abbrev State.QuietOffAir (s : State) : Prop := ∀ c, c < Config.channels → (s.chan c).QuietOffAir

/-- The take queue holds at most four records, each with an item (R100, R102), the dirty list no entry twice (R97), and the
fan-out engine is idle exactly while the take queue is empty (R116). -/
abbrev State.TakesSound (s : State) : Prop :=
  s.gather.takeQueue.length ≤ Config.takeQueueMax ∧ (∀ r ∈ s.gather.takeQueue, r.changes ≠ []) ∧
    (s.gather.dirty.map Prod.fst).Nodup ∧ (s.fanout = none ↔ s.gather.takeQueue = [])

/-- The re-read list holds at most 16 words and none twice (R65), and at most one fetch read is in flight (R60). -/
abbrev State.FetchSound (s : State) : Prop :=
  s.fetch.reread.length ≤ Config.rereadMax ∧ s.fetch.reread.Nodup ∧
    (s.memPort.inflight.filter fun e => e.origin == .fetch).length ≤ 1

/-- The kind of a quality, its held value aside (R6). -/
def Quality.kind {α : Type} : Quality α → Quality Unit
  | .unknown => .unknown
  | .suspect => .suspect
  | .unverified _ => .unverified ()
  | .verified _ => .verified ()

/-- The shadow holds entries of the words of the two regions and no other (R6). -/
abbrev State.ShadowInRegions (s : State) : Prop :=
  (∀ o, Straps.xpLen s.straps ≤ o → s.crosspointQuality o = .unknown) ∧
    ∀ o, Straps.nameLen s.straps ≤ o → s.nameQuality o = .unknown

/-- Every store kept as a table is in canonical form, so that equal stores are equal data. -/
abbrev State.Canonical (s : State) : Prop :=
  Table.wf Quality.unknown s.shadow.crosspoints ∧ Table.wf Quality.unknown s.shadow.names ∧
    Table.wf ClassState.clear s.faults ∧ Table.wf Channel.reset s.chans ∧
    ∀ c, c < Config.channels → Table.wf Tile.reset (s.chan c).tiles

end Sys2Proof.Machine
end

