-- ==== Sys2Proof/Certificates/Slice0/Obligations.lean ====
section
/-! DEFINITION. The statements for the provers, from the spec's numbered rules. -/

open Sys2Proof Sys2Proof.Machine

/-! ### The machine -/

/-- A step takes the command at the front of the queue. -/
def Obligations.StepRunsFrontCommand : Prop :=
  ∀ (c : Instr) (rest : List Instr) (s : State), s.pending = c :: rest → step s = exec c { s with pending := rest }

/-- The model's choice of log entry 2: on an empty queue a request found standing presented at a free port is taken as
CONTROL_REQUEST takes it, a due event is taken, and otherwise the time base counts 1 µs; with RSTN low nothing happens. That a
request can stand so is a state no run reaches (log entry 15). -/
def Obligations.EmptyQueueStep : Prop :=
  ∀ s : State, s.pending = [] →
    (s.up = false → step s = .next s) ∧
    (∀ p r rest, s.up = true → (s.port p).presented = r :: rest → (s.port p).pending = none →
      (p = .b → s.presentedDue .a = false) →
      (rest = [] → step s = exec (.controlRequest p r) (s.setPort p { s.port p with presented := [] })) ∧
      ∃ t, exec (.controlRequest p r) (s.setPort p { s.port p with presented := [] }) = .next t ∧
        step s = .next (rest.foldl (fun acc x => acc.presentRequest p x) t)) ∧
    (s.up = true → s.presentedDue .a = false → s.presentedDue .b = false →
      (∀ c, s.dueCommand = some c → step s = exec c s) ∧
      (s.dueCommand = none → step s = .next { s with now := s.now + 1 }))

/-- Every command answers a next state, with the queue of waiting commands as it was: the model's choice where the event
cannot happen in the state (log entries 1, 7 and 23). -/
def Obligations.EveryCommandAnswersNext : Prop :=
  ∀ (c : Instr) (s : State), ∃ t, exec c s = .next t ∧ t.pending = s.pending

/-- While RSTN is low only its rise acts; of the rest only the level of LOANREQ is kept, for R54. -/
def Obligations.HeldInResetNothingActs : Prop :=
  ∀ (c : Instr) (s : State), s.device = .inReset → (∀ pins, c ≠ .rstnRise pins) →
    ∃ level, exec c s = .next { s with loanReq := level } ∧
      (c ≠ .loanRequest → c ≠ .loanEnd → c ≠ .loanWithdrawal → level = s.loanReq)

/-! ### Reset and start-up -/

/-- The values each block's table gives after RSTN. -/
def Obligations.ResetValues : Prop :=
  (∀ p, State.reset.port p = { pending := none, queue := [], presented := [], answers := [] }) ∧
  State.reset.memPort = { inflight := [], lastGranted := .b, starvation := 0 } ∧
  State.reset.loan = .none ∧
  (∀ o, State.reset.crosspointQuality o = .unknown ∧ State.reset.nameQuality o = .unknown) ∧
  State.reset.fetch = { sweep := .idle, reread := [] } ∧
  (∀ n, State.reset.classState n = { pending := false, capture := none, count := 0 }) ∧
  State.reset.frame =
    { state := .absent, lastSwitch := 0, expected := 20000, halfWidth := 156, latest := none, candidates := [],
      noise := 0, count := 0 } ∧
  State.reset.now = 0 ∧
  State.reset.gather = { dirty := [], takeQueue := [], late := 0, bounced := 0 } ∧
  State.reset.fanout = none ∧
  State.reset.params = { p0 := 20000, ls := 16, tm := 16, ta := 2000 } ∧
  State.reset.mgmt = { spi := .idle, reference := false, sweep := false, irqMask := 0 } ∧
  (∀ c, (State.reset.chan c).state = .stopped ∧ (State.reset.chan c).queue = [] ∧ (State.reset.chan c).slots = 0 ∧
    (State.reset.chan c).tx = none ∧ (State.reset.chan c).txInverted = false ∧
    (State.reset.chan c).framePending = none ∧ (State.reset.chan c).ticks = 0 ∧
    (State.reset.chan c).debt = 0 ∧ (State.reset.chan c).forced = false ∧ (State.reset.chan c).cursor = none ∧
    (State.reset.chan c).mismatch = 0 ∧ (State.reset.chan c).digest = 0 ∧ (State.reset.chan c).snapshots = [] ∧
    (State.reset.chan c).helloCount = 0 ∧ (State.reset.chan c).helloPending = false ∧
    (State.reset.chan c).heard = false ∧ (State.reset.chan c).missing = 0 ∧ (State.reset.chan c).hold = false ∧
    (State.reset.chan c).heldFrames = 0 ∧ (State.reset.chan c).rx = .idle ∧ (State.reset.chan c).lastStatus = none ∧
    (State.reset.chan c).statusCount = 0 ∧ (State.reset.chan c).returnErrors = 0 ∧
    (State.reset.chan c).frameCount = 0 ∧ (State.reset.chan c).changeCount = 0 ∧
    (State.reset.chan c).superseded = 0 ∧ (State.reset.chan c).droppedEqual = 0 ∧
    (State.reset.chan c).refreshNotices = 0 ∧ (State.reset.chan c).refreshes = 0 ∧
    (State.reset.chan c).staleCount = 0 ∧ (State.reset.chan c).tc = 64 ∧ (State.reset.chan c).budget = 16 ∧
    (State.reset.chan c).interval = 100 ∧ (State.reset.chan c).options = 0x04) ∧
  (∀ c t, (State.reset.chan c).tile t =
    { assignment := none, current := .unassigned, take := 0, lastSent := .unassigned })

/-- RSTN falling puts every block at its reset values; the level of LOANREQ, an input, stands. The reset state itself is the
model's choice of log entry 3. -/
def Obligations.RstnFallResetsThePart : Prop :=
  ∀ s : State, s.up = true →
    exec .rstnFall s = .next { State.reset with loanReq := s.loanReq, pending := s.pending }

/-- RSTN rising samples the straps, enters SELFTEST with BIST = 1, and otherwise makes the overlap check and starts the sweep;
a receiver waits for mark where its return line is found at space; a LOANREQ found asserted is granted at once, beside the
same start-up. -/
def Obligations.RiseStartsThePart : Prop :=
  (∀ (lines : BitVec 16) (c : Nat), c < 16 →
    Table.get Channel.reset (risenChannels lines) c = { Channel.reset with rxWire := lines.getLsbD c } ∧
      (Table.get Channel.reset (risenChannels lines) c).rxAwaitMark = !lines.getLsbD c) ∧
  ∀ (pins : Pins) (s : State), s.device = .inReset →
    (s.loanReq = false →
      (pins.straps.bist = true →
        exec (.rstnRise pins) s =
          .next { State.reset with
            straps := pins.straps, device := .selftest, pending := s.pending, chans := risenChannels pins.lines }) ∧
      (pins.straps.bist = false → pins.straps.xbase ≠ pins.straps.nbase →
        exec (.rstnRise pins) s =
          .next { State.reset with
            straps := pins.straps, device := .operating, pending := s.pending, chans := risenChannels pins.lines,
            fetch := { sweep := .running .crosspoint (BitVec.ofNat 22 (pins.straps.xbase.toNat * 16384)),
                       reread := [] } }) ∧
      (pins.straps.bist = false → pins.straps.xbase = pins.straps.nbase →
        exec (.rstnRise pins) s =
          .next { State.reset with
            straps := pins.straps, device := .halted, pending := s.pending, chans := risenChannels pins.lines,
            fetch := { sweep := .running .crosspoint (BitVec.ofNat 22 (pins.straps.xbase.toNat * 16384)),
                       reread := [] },
            faults := [(5, ClassState.mk true
              (some (Capture.mk .regionOverlap .selftest
                (.word (BitVec.ofNat 22 (pins.straps.xbase.toNat * 16384))) 0)) 1)] })) ∧
    (s.loanReq = true →
      ∃ t, exec (.rstnRise pins) s = .next t ∧
        t = { State.reset with
          straps := pins.straps, loanReq := true, loan := .granted, pending := s.pending,
          chans := risenChannels pins.lines, device := t.device, fetch := t.fetch, faults := t.faults } ∧
        t.classState 4 = ClassState.mk true
          (some (Capture.mk .loanGranted .fetch
            (if pins.straps.bist then .absent
             else .word (BitVec.ofNat 22 (pins.straps.xbase.toNat * 16384))) 0)) 1 ∧
        (∀ n, n ≠ 4 → n ≠ 5 → t.classState n = ClassState.mk false none 0) ∧
        (pins.straps.bist = true →
          t.device = .selftest ∧ t.fetch = { sweep := .idle, reread := [] } ∧
            t.classState 5 = ClassState.mk false none 0) ∧
        (pins.straps.bist = false →
          t.fetch =
            { sweep := .running .crosspoint (BitVec.ofNat 22 (pins.straps.xbase.toNat * 16384)), reread := [] } ∧
          (pins.straps.xbase ≠ pins.straps.nbase →
            t.device = .operating ∧ t.classState 5 = ClassState.mk false none 0) ∧
          (pins.straps.xbase = pins.straps.nbase →
            t.device = .halted ∧
            t.classState 5 = ClassState.mk true
              (some (Capture.mk .regionOverlap .selftest
                (.word (BitVec.ofNat 22 (pins.straps.xbase.toNat * 16384))) 0)) 1)))

/-- The self-test's completion leaves the three stores at their reset contents, records HALT 0x50 for a failure and then HALT
0x51 for overlapping regions, and ends the start-up. -/
def Obligations.SelftestEnds : Prop :=
  ∀ (pass : Bool) (s : State), s.device = .selftest →
    ∃ t, exec (.selftestCompletion pass) s = .next t ∧
      t.shadow = { crosspoints := [], names := [] } ∧
      t.gather = { s.gather with dirty := [], takeQueue := [] } ∧ t.fanout = none ∧
      t.fetch =
        { s.fetch with sweep := .running .crosspoint (BitVec.ofNat 22 (s.straps.xbase.toNat * 16384)) } ∧
      (pass = true → s.straps.xbase ≠ s.straps.nbase →
        t.device = .operating ∧ t.classState 5 = s.classState 5 ∧ ∀ c, c < 16 → t.chan c = s.chan c) ∧
      (pass = false ∨ s.straps.xbase = s.straps.nbase →
        t.device = .halted ∧ ∀ c, c < 16 → t.chan c = (s.chan c).stopEffects) ∧
      (pass = false → s.straps.xbase ≠ s.straps.nbase →
        t.classState 5 = (s.classState 5).record
          { kind := .selftestFailure, origin := .selftest, location := .absent, tag := s.tag }) ∧
      (pass = true → s.straps.xbase = s.straps.nbase →
        t.classState 5 = (s.classState 5).record
          { kind := .regionOverlap, origin := .selftest, tag := s.tag,
            location := .word (BitVec.ofNat 22 (s.straps.xbase.toNat * 16384)) }) ∧
      (pass = false → s.straps.xbase = s.straps.nbase →
        t.classState 5 = ((s.classState 5).record
          { kind := .selftestFailure, origin := .selftest, location := .absent, tag := s.tag }).record
          { kind := .regionOverlap, origin := .selftest, tag := s.tag,
            location := .word (BitVec.ofNat 22 (s.straps.xbase.toNat * 16384)) }) ∧
      (∀ n, n ≠ 5 → t.classState n = s.classState n) ∧
      s.Only [.device, .shadow, .gather, .fanout, .fetch, .faults, .chans] t

/-! ### Control ports -/

/-- A read that passes the checks becomes the pending request of a free port, its wait timer started; the address parity check
and after it the lane check answer FAIL with one ACCESS fault and nothing else; a request behind a pending one stays
presented, after those before it, and what stands presented is taken in order in the event that answers the pending one. The
list of requests presented and the record of the answers are the model's (log entries 15 and 16). -/
def Obligations.RequestTakenRefusedOrKept : Prop :=
  (∀ (p : PortId) (r : Request) (s : State), s.up = true →
    ((s.port p).Free → s.ParityPasses r → r.write = false →
      exec (.controlRequest p r) s =
        .next (s.setPort p { s.port p with
          pending := some { op := .read r.addr, wait := .waiting (s.now + s.params.ta) } })) ∧
    (∀ q, (s.port p).pending = some q →
      exec (.controlRequest p r) s =
        .next (s.setPort p { s.port p with presented := (s.port p).presented ++ [r] })) ∧
    ((s.port p).Free → s.straps.aparen = true → r.parityOdd = true →
      exec (.controlRequest p r) s =
        .next ((s.setPort p { s.port p with answers := (s.port p).answers ++ [.fail] }).recordFault .addressParity
          (portOrigin p) (.word r.addr))) ∧
    ((s.port p).Free → s.ParityPasses r → s.straps.eccen = true → r.write = true → r.lanes ≠ 0xF#4 →
      exec (.controlRequest p r) s =
        .next ((s.setPort p { s.port p with answers := (s.port p).answers ++ [.fail] }).recordFault .partialWithEcc
          (portOrigin p) (.word r.addr))) ∧
    ((s.port p).pending ≠ none ∨ (s.port p).presented = [] →
      exec (.controlRequest p r) s = .next (s.presentRequest p r))) ∧
  ∀ s t : State,
    ((∀ p, (s.port p).pending = none ∨ (t.port p).pending ≠ none ∨ (t.port p).presented = []) → s.settle t = t) ∧
    (∀ p, (s.port p).pending ≠ none → (t.port p).pending = none →
      (∀ q, q ≠ p → (s.port q).pending = none ∨ (t.port q).pending ≠ none ∨ (t.port q).presented = []) →
      s.settle t =
        (t.port p).presented.foldl (fun acc r => acc.presentRequest p r)
          (t.setPort p { t.port p with presented := [] }))

/-- A write accepted as received enters the queue with DONE where there is room, and otherwise becomes the pending request. -/
def Obligations.WriteAccepted : Prop :=
  ∀ (p : PortId) (r : Request) (s : State), s.up = true → (s.port p).Free → s.ParityPasses r → r.write = true →
    (s.straps.eccen = false ∨ r.lanes = 0xF#4 ∧ (eccDecode r.data r.check).outcome = .clean) →
    (s.straps.post = true → (s.port p).queue.length < 8 →
      exec (.controlRequest p r) s =
        .next (s.setPort p { s.port p with
          queue := (s.port p).queue ++
            [{ addr := r.addr, lanes := r.lanes, data := r.data, check := r.check, poisoned := false }]
          answers := (s.port p).answers ++ [.done] })) ∧
    (s.straps.post = false ∨ 8 ≤ (s.port p).queue.length →
      exec (.controlRequest p r) s =
        .next (s.setPort p { s.port p with
          pending := some (PendingRequest.mk
            (.write { addr := r.addr, lanes := r.lanes, data := r.data, check := r.check, poisoned := false })
            (.waiting (s.now + s.params.ta))) }))

/-- The decode of an accepted write: corrected data with fresh check bits, or the poison pattern over the data as received,
with the fault recorded at acceptance, whether the write enters the queue with DONE or becomes the pending request. -/
def Obligations.WriteDecodedAtAcceptance : Prop :=
  ∀ (p : PortId) (r : Request) (s : State) (w : WriteWord) (k : FaultKind), s.up = true → (s.port p).Free →
    s.ParityPasses r → r.write = true → s.straps.eccen = true → r.lanes = 0xF#4 →
    ((eccDecode r.data r.check).outcome = .corrected ∧ k = .writeCorrected ∧
        w = { addr := r.addr, lanes := r.lanes, data := (eccDecode r.data r.check).data,
              check := encodeCheck (eccDecode r.data r.check).data, poisoned := false } ∨
      (eccDecode r.data r.check).outcome = .uncorrectable ∧
        k = (if Straps.region s.straps r.addr = .outside then .poisonedOutside else .poisonedRegionWrite) ∧
        w = { addr := r.addr, lanes := r.lanes, data := r.data, check := encodeCheck r.data ^^^ 0x03#7,
              poisoned := true }) →
    (s.straps.post = true → (s.port p).queue.length < 8 →
      exec (.controlRequest p r) s =
        .next ((s.setPort p { s.port p with
          queue := (s.port p).queue ++ [w], answers := (s.port p).answers ++ [.done] }).recordFault k
          (portOrigin p) (.word r.addr))) ∧
    (s.straps.post = false ∨ 8 ≤ (s.port p).queue.length →
      exec (.controlRequest p r) s =
        .next ((s.setPort p { s.port p with
          pending := some (PendingRequest.mk (.write w) (.waiting (s.now + s.params.ta))) }).recordFault k
          (portOrigin p) (.word r.addr)))

/-- The wait timer's expiry answers FAIL, drops the request and records ACCESS 0x11 or 0x12, and the port takes what stands
presented. Before its time, by the model's choice of log entry 7, and once the request is issued, the command changes
nothing. -/
def Obligations.WaitTimeoutAnswersFail : Prop :=
  ∀ (p : PortId) (s : State) (q : PendingRequest), s.up = true → (s.port p).pending = some q →
    (∀ deadline a, q = { op := .read a, wait := .waiting deadline } → deadline ≤ s.now →
      exec (.waitTimeout p) s =
        .next (s.settle ((s.setPort p { s.port p with
          pending := none, answers := (s.port p).answers ++ [.fail] }).recordFault .readWaitTimeout
          (portOrigin p) (.word a)))) ∧
    (∀ deadline w, q = { op := .write w, wait := .waiting deadline } → deadline ≤ s.now →
      exec (.waitTimeout p) s =
        .next (s.settle ((s.setPort p { s.port p with
          pending := none, answers := (s.port p).answers ++ [.fail] }).recordFault .writeWaitTimeout
          (portOrigin p) (.word w.addr)))) ∧
    (∀ deadline, q.wait = .waiting deadline → s.now < deadline → exec (.waitTimeout p) s = .next s) ∧
    (q.wait = .issued → exec (.waitTimeout p) s = .next s)

/-- The candidate of a port, by the two tables of R31. -/
def Obligations.CandidateTable : Prop :=
  ∀ pt : Port,
    (pt.pending = none → pt.queue = [] → pt.candidate true = none) ∧
    (pt.pending = none → pt.queue ≠ [] → pt.candidate true = some .queueHead) ∧
    (∀ a d, pt.pending = some { op := .read a, wait := .waiting d } →
      (∀ w ∈ pt.queue, w.addr.toNat / 64 ≠ a.toNat / 64) →
        (pt.queue.length < 8 → pt.candidate true = some .pendingRequest) ∧
        (8 ≤ pt.queue.length → pt.candidate true = some .queueHead)) ∧
    (∀ a d, pt.pending = some { op := .read a, wait := .waiting d } →
      (∃ w ∈ pt.queue, w.addr.toNat / 64 = a.toNat / 64) → pt.candidate true = some .queueHead) ∧
    (∀ w d, pt.pending = some { op := .write w, wait := .waiting d } → pt.queue ≠ [] →
      pt.candidate true = some .queueHead) ∧
    (∀ op, pt.pending = some { op := op, wait := .issued } →
      (pt.queue = [] → pt.candidate true = none) ∧ (pt.queue ≠ [] → pt.candidate true = some .queueHead)) ∧
    (pt.pending = none → pt.candidate false = none) ∧
    (∀ op, pt.pending = some { op := op, wait := .issued } → pt.candidate false = none) ∧
    (∀ op d, pt.pending = some { op := op, wait := .waiting d } → pt.candidate false = some .pendingRequest)

/-! ### Memory port, arbiter and loan -/

/-- The arbiter's five steps, the first that applies deciding. -/
def Obligations.ArbiterChoice : Prop :=
  ∀ s : State,
    (∀ a, s.fetchWaiting = some a → s.params.ls < 255 → s.params.ls ≤ s.memPort.starvation →
      s.arbitrate = some (.fetch a)) ∧
    ((s.fetchWaiting = none ∨ s.params.ls = 255 ∨ s.memPort.starvation < s.params.ls) →
      (∀ x y, s.candidate .a = some x → s.candidate .b = some y →
        (s.memPort.lastGranted = .b → s.arbitrate = some (.port .a x)) ∧
        (s.memPort.lastGranted = .a → s.arbitrate = some (.port .b y))) ∧
      (∀ x, s.candidate .a = some x → s.candidate .b = none → s.arbitrate = some (.port .a x)) ∧
      (∀ y, s.candidate .a = none → s.candidate .b = some y → s.arbitrate = some (.port .b y)) ∧
      (∀ a, s.candidate .a = none → s.candidate .b = none → s.fetchWaiting = some a →
        s.arbitrate = some (.fetch a)) ∧
      (s.candidate .a = none → s.candidate .b = none → s.fetchWaiting = none → s.arbitrate = none))

/-- The issue of a granted port read and of a granted fetch read: the access joins the in-flight list with its deadline, the
read's place is given up, and the arbiter's state follows the grant. There is no opportunity from a loan's request on, nor
with four accesses in flight. -/
def Obligations.IssueOfRead : Prop :=
  (∀ s : State, s.up = true → s.loan ≠ .none ∨ 4 ≤ s.memPort.inflight.length → exec .issue s = .next s) ∧
  ∀ s : State, s.Opportunity →
    (∀ p a d, s.arbitrate = some (.port p .pendingRequest) →
      (s.port p).pending = some { op := .read a, wait := .waiting d } →
      exec .issue s = .next { s.setPort p { s.port p with pending := some { op := .read a, wait := .issued } } with
        memPort := {
          inflight := s.memPort.inflight ++
            [{ origin := .port p, addr := a, region := Straps.region s.straps a, issueTime := s.now,
               deadline := s.now + s.params.tm,
               op := .read (decide (Straps.region s.straps a ≠ .outside ∧ s.live = false)) }]
          lastGranted := p
          starvation := if s.fetchWaiting.isSome then min (s.memPort.starvation + 1) 255
                        else s.memPort.starvation } }) ∧
    (∀ a, s.arbitrate = some (.fetch a) → s.fetchWaiting = some a →
      ∃ t, exec .issue s = .next t ∧
        t.memPort = {
          inflight := s.memPort.inflight ++
            [{ origin := .fetch, addr := a, region := Straps.region s.straps a, issueTime := s.now,
               deadline := s.now + s.params.tm, op := .read false }]
          lastGranted := s.memPort.lastGranted
          starvation := 0 } ∧
        (∀ rest, s.fetch.reread = a :: rest → t.fetch = { s.fetch with reread := rest }) ∧
        (∀ b, s.fetch.reread = [] → s.fetch.sweep = .running .crosspoint b →
          t.fetch = { s.fetch with sweep :=
            (if b.toNat + 1 < Straps.xpBase s.straps + Straps.xpLen s.straps then Sweep.running .crosspoint (b + 1)
             else Sweep.running .name (BitVec.ofNat 22 (Straps.nameBase s.straps))) }) ∧
        (∀ b, s.fetch.reread = [] → s.fetch.sweep = .running .name b →
          t.fetch = { s.fetch with sweep :=
            (if b.toNat + 1 < Straps.nameBase s.straps + Straps.nameLen s.straps then Sweep.running .name (b + 1)
             else Sweep.ending) }) ∧
        s.Only [.memPort, .fetch] t) ∧
    (s.arbitrate = none → exec .issue s = .next s)

/-- The issue of a write: a posted one leaves its queue, and a write waiting for space enters it and is answered DONE in the
same event, after which its port takes what stands presented; with posting depth 0 the pending write is issued and waits for
its answer. Every read of the word in flight has its stale mark set, the arbiter's state follows the grant, and the write is
snooped; outside the regions it leaves shadow, gather and fetch engine as they are. -/
def Obligations.IssueOfWrite : Prop :=
  ∀ (s : State) (p : PortId) (w : WriteWord) (posted : Bool) (bus : MemPort), s.Opportunity →
    bus =
      { inflight :=
          (s.memPort.inflight.map fun e =>
            match e.op with
            | .read stale =>
              { e with op := .read (stale || decide (e.addr = w.addr ∧ e.region ≠ .outside)) }
            | .write _ _ => e) ++
          [{ origin := .port p, addr := w.addr, region := Straps.region s.straps w.addr, issueTime := s.now,
             deadline := s.now + s.params.tm, op := .write w posted }]
        lastGranted := p
        starvation := if s.fetchWaiting.isSome then min (s.memPort.starvation + 1) 255
                      else s.memPort.starvation } →
    (∀ d, posted = false → s.arbitrate = some (.port p .pendingRequest) →
      (s.port p).pending = some { op := .write w, wait := .waiting d } →
      ∃ t, exec .issue s = .next t ∧
        t.port p = { s.port p with pending := some { op := .write w, wait := .issued } } ∧
        (∀ q, q ≠ p → t.port q = s.port q) ∧ t.memPort = bus ∧
        (Straps.region s.straps w.addr ≠ .outside →
          t.shadow = (s.snoop w).shadow ∧ t.gather = (s.snoop w).gather ∧ t.fetch = (s.snoop w).fetch ∧
            t.faults = (s.snoop w).faults) ∧
        (Straps.region s.straps w.addr = .outside →
          t.shadow = s.shadow ∧ t.gather = s.gather ∧ t.fetch = s.fetch ∧ t.faults = s.faults) ∧
        s.Only [.portA, .portB, .memPort, .shadow, .gather, .fetch, .faults] t) ∧
    (∀ rest, posted = true → s.arbitrate = some (.port p .queueHead) → (s.port p).queue = w :: rest →
      ∃ t, exec .issue s = .next (s.settle t) ∧
        (∀ x d, (s.port p).pending = some { op := .write x, wait := .waiting d } →
          t.port p = { s.port p with
            pending := none, answers := (s.port p).answers ++ [.done], queue := rest ++ [x] }) ∧
        ((∀ x d, (s.port p).pending ≠ some { op := .write x, wait := .waiting d }) →
          t.port p = { s.port p with queue := rest }) ∧
        (∀ q, q ≠ p → t.port q = s.port q) ∧ t.memPort = bus ∧
        (Straps.region s.straps w.addr ≠ .outside →
          t.shadow = (s.snoop w).shadow ∧ t.gather = (s.snoop w).gather ∧ t.fetch = (s.snoop w).fetch ∧
            t.faults = (s.snoop w).faults) ∧
        (Straps.region s.straps w.addr = .outside →
          t.shadow = s.shadow ∧ t.gather = s.gather ∧ t.fetch = s.fetch ∧ t.faults = s.faults) ∧
        s.Only [.portA, .portB, .memPort, .shadow, .gather, .fetch, .faults] t)

/-- The snoop of a write acts on its word's shadow entry by coverage and ECC outcome, and on no other entry, with the tracked
bits that each lane holds; a word left in doubt joins the re-read list, and no other write's word does; a list that is full is
emptied with IMAGE 0x41 and a restart of the sweep. With the tracker not live the snoop changes nothing. -/
def Obligations.SnoopByCoverage : Prop :=
  (∀ (s : State) (w : WriteWord), s.live = false → s.snoop w = s) ∧
  (∀ (s : State) (w : WriteWord), s.live = true →
    (∀ o, Straps.xpOffset s.straps w.addr = some o →
      (w.poisoned = true → (s.snoop w).crosspointQuality o = .suspect) ∧
      (w.poisoned = false → w.lanes.getLsbD 0 = true → w.lanes.getLsbD 1 = true →
        (s.snoop w).crosspointQuality o = .verified (routeOf w.data)) ∧
      (w.poisoned = false → w.lanes.getLsbD 0 ≠ w.lanes.getLsbD 1 →
        (∀ h, s.crosspointQuality o = .verified h →
          (s.snoop w).crosspointQuality o = .verified (mergeRoute w.lanes w.data h)) ∧
        (∀ h, s.crosspointQuality o = .unverified h →
          (s.snoop w).crosspointQuality o = .unverified (mergeRoute w.lanes w.data h)) ∧
        (s.crosspointQuality o = .unknown ∨ s.crosspointQuality o = .suspect →
          (s.snoop w).crosspointQuality o = s.crosspointQuality o)) ∧
      (w.poisoned = false → w.lanes.getLsbD 0 = false → w.lanes.getLsbD 1 = false →
        (s.snoop w).crosspointQuality o = s.crosspointQuality o) ∧
      (∀ j, j ≠ o → (s.snoop w).crosspointQuality j = s.crosspointQuality j)) ∧
    (∀ o, Straps.nameOffset s.straps w.addr = some o →
      (w.poisoned = true → (s.snoop w).nameQuality o = .suspect) ∧
      (w.poisoned = false → w.lanes = 0xF#4 → (s.snoop w).nameQuality o = .verified w.data) ∧
      (w.poisoned = false → w.lanes = 0#4 → (s.snoop w).nameQuality o = s.nameQuality o) ∧
      (w.poisoned = false → w.lanes ≠ 0xF#4 → w.lanes ≠ 0#4 →
        (∀ h, s.nameQuality o = .verified h →
          (s.snoop w).nameQuality o = .verified (mergeNameWord w.lanes w.data h)) ∧
        (∀ h, s.nameQuality o = .unverified h →
          (s.snoop w).nameQuality o = .unverified (mergeNameWord w.lanes w.data h)) ∧
        (s.nameQuality o = .unknown ∨ s.nameQuality o = .suspect →
          (s.snoop w).nameQuality o = s.nameQuality o)) ∧
      (∀ j, j ≠ o → (s.snoop w).nameQuality j = s.nameQuality j)) ∧
    (Straps.xpOffset s.straps w.addr = none → ∀ j, (s.snoop w).crosspointQuality j = s.crosspointQuality j) ∧
    (Straps.nameOffset s.straps w.addr = none → ∀ j, (s.snoop w).nameQuality j = s.nameQuality j) ∧
    (∀ doubt : Prop,
      (doubt ↔ w.poisoned = false ∧
        ((∃ o, Straps.xpOffset s.straps w.addr = some o ∧ w.lanes.getLsbD 0 ≠ w.lanes.getLsbD 1 ∧
            (s.crosspointQuality o = .unknown ∨ s.crosspointQuality o = .suspect)) ∨
          ∃ o, Straps.nameOffset s.straps w.addr = some o ∧ w.lanes ≠ 0xF#4 ∧ w.lanes ≠ 0#4 ∧
            (s.nameQuality o = .unknown ∨ s.nameQuality o = .suspect))) →
      (doubt → (s.snoop w).fetch = (s.addReread w.addr).fetch ∧ (s.snoop w).faults = (s.addReread w.addr).faults) ∧
      (¬ doubt → (s.snoop w).fetch = s.fetch ∧ (s.snoop w).faults = s.faults)) ∧
    s.Only [.shadow, .gather, .fetch, .faults] (s.snoop w)) ∧
  (∀ (data held : BitVec 32) (lanes : Lanes) (route : Route),
    (routeOf data).protect = data.getLsbD 12 ∧
    (∀ i, i < 11 → (routeOf data).source.getLsbD i = data.getLsbD i) ∧
    (mergeRoute lanes data route).protect = (if lanes.getLsbD 1 = true then data.getLsbD 12 else route.protect) ∧
    (∀ i, i < 11 → (mergeRoute lanes data route).source.getLsbD i =
      if lanes.getLsbD (i / 8) = true then data.getLsbD i else route.source.getLsbD i) ∧
    (∀ i, i < 32 → (mergeNameWord lanes data held).getLsbD i =
      if lanes.getLsbD (i / 8) = true then data.getLsbD i else held.getLsbD i)) ∧
  ∀ (s : State) (a : WordAddr),
    (a ∈ s.fetch.reread → s.addReread a = s) ∧
    (a ∉ s.fetch.reread → s.fetch.reread.length < 16 →
      s.addReread a = { s with fetch := { s.fetch with reread := s.fetch.reread ++ [a] } }) ∧
    (a ∉ s.fetch.reread → 16 ≤ s.fetch.reread.length →
      (s.live = true →
        s.addReread a = State.recordFault
          { s with fetch := {
              sweep := .running .crosspoint (BitVec.ofNat 22 (s.straps.xbase.toNat * 16384)), reread := [] } }
          .rereadOverflow .fetch (.word a)) ∧
      (s.live = false →
        s.addReread a = State.recordFault { s with fetch := { s.fetch with reread := [] } }
          .rereadOverflow .fetch (.word a)))

/-- The completion of a port's read outside the regions: DATA as returned or corrected, or FAIL, with the fault of its decode
outcome; a loan request that waited for this access is granted in the same event, and the port takes what stands
presented. -/
def Obligations.PortReadCompletes : Prop :=
  ∀ (s : State) (e : Access) (rest : List Access) (p : PortId) (stale : Bool) (data : BitVec 32) (check : BitVec 7),
    s.up = true → s.memPort.inflight = e :: rest → e.op = .read stale → e.origin = .port p → e.region = .outside →
    (s.straps.eccen = false ∨ (eccDecode data check).outcome = .clean →
      exec (.readCompletion data check) s =
        .next (s.settle (State.grantIfDrained
          { s.setPort p { s.port p with
              pending := none, answers := (s.port p).answers ++ [.data data check] } with
            memPort := { s.memPort with inflight := rest } }))) ∧
    (s.straps.eccen = true → (eccDecode data check).outcome = .corrected →
      exec (.readCompletion data check) s =
        .next (s.settle (State.grantIfDrained (State.recordFault
          { s.setPort p { s.port p with
              pending := none
              answers := (s.port p).answers ++
                [.data (eccDecode data check).data (encodeCheck (eccDecode data check).data)] } with
            memPort := { s.memPort with inflight := rest } } .readCorrected (portOrigin p) (.word e.addr))))) ∧
    (s.straps.eccen = true → (eccDecode data check).outcome = .uncorrectable →
      exec (.readCompletion data check) s =
        .next (s.settle (State.grantIfDrained (State.recordFault
          { s.setPort p { s.port p with pending := none, answers := (s.port p).answers ++ [.fail] } with
            memPort := { s.memPort with inflight := rest } } .uncorrectableOutside (portOrigin p) (.word e.addr)))))

/-- The completion of a read of a region word: dropped for the shadow with its stale mark set or the tracker not live;
otherwise each entry of the word VERIFIED with the tracked bits read, or SUSPECT, with a content mismatch recorded where a
VERIFIED entry differed. A port is answered, and a correction recorded, as for any read. The grant of a waiting loan request
and the taking of presented requests follow in the same event. -/
def Obligations.RegionReadActsOnShadow : Prop :=
  ∀ (s : State) (e : Access) (rest : List Access) (stale : Bool) (data : BitVec 32) (check : BitVec 7) (d : Decoded),
    s.up = true → s.memPort.inflight = e :: rest → e.op = .read stale → e.region ≠ .outside →
    d = decodeWord s.straps.eccen data check →
    ∃ t : State, exec (.readCompletion data check) s = .next (s.settle t.grantIfDrained) ∧
      t.memPort = { s.memPort with inflight := rest } ∧
      (stale = true ∨ s.live = false → t.shadow = s.shadow ∧ t.gather = s.gather) ∧
      (stale = false → s.live = true →
        (∀ o, Straps.xpOffset s.straps e.addr = some o →
          (d.outcome = .uncorrectable → t.crosspointQuality o = .suspect) ∧
          (d.outcome ≠ .uncorrectable → t.crosspointQuality o = .verified (routeOf d.data)) ∧
          ∀ j, j ≠ o → t.crosspointQuality j = s.crosspointQuality j) ∧
        (∀ o, Straps.nameOffset s.straps e.addr = some o →
          (d.outcome = .uncorrectable → t.nameQuality o = .suspect) ∧
          (d.outcome ≠ .uncorrectable → t.nameQuality o = .verified d.data) ∧
          ∀ j, j ≠ o → t.nameQuality j = s.nameQuality j) ∧
        (Straps.xpOffset s.straps e.addr = none → ∀ j, t.crosspointQuality j = s.crosspointQuality j) ∧
        (Straps.nameOffset s.straps e.addr = none → ∀ j, t.nameQuality j = s.nameQuality j)) ∧
      (d.outcome = .uncorrectable →
        t.classState 3 = (s.classState 3).record
          { kind := .uncorrectableRegion, origin := e.origin.origin, location := .word e.addr, tag := s.tag }) ∧
      (∀ differs : Prop,
        (differs ↔ stale = false ∧ s.live = true ∧
          ((∃ o h, Straps.xpOffset s.straps e.addr = some o ∧ s.crosspointQuality o = .verified h ∧
              h ≠ routeOf d.data) ∨
            ∃ o h, Straps.nameOffset s.straps e.addr = some o ∧ s.nameQuality o = .verified h ∧ h ≠ d.data)) →
        d.outcome ≠ .uncorrectable →
        (differs → t.classState 3 = (s.classState 3).record
          { kind := .contentMismatch, origin := e.origin.origin, location := .word e.addr, tag := s.tag }) ∧
        (¬ differs → t.classState 3 = s.classState 3)) ∧
      (d.outcome = .corrected →
        (∀ p, e.origin = .port p → t.classState 0 = (s.classState 0).record
          { kind := .readCorrected, origin := portOrigin p, location := .word e.addr, tag := s.tag }) ∧
        (e.origin = .fetch → t.classState 0 = (s.classState 0).record
          { kind := .fetchCorrected, origin := .fetch, location := .word e.addr, tag := s.tag })) ∧
      (d.outcome ≠ .corrected → t.classState 0 = s.classState 0) ∧
      (∀ p, e.origin = .port p →
        t.port p = { s.port p with
          pending := none
          answers := (s.port p).answers ++
            [if d.outcome = .uncorrectable then Answer.fail else .data d.data d.check] } ∧
        t.fetch = s.fetch ∧ t.mgmt = s.mgmt ∧ ∀ q, q ≠ p → t.port q = s.port q) ∧
      s.Only [.portA, .portB, .memPort, .fetch, .mgmt, .faults, .shadow, .gather] t

/-- A fetch read's completion finishes it: a sweep that was ENDING becomes IDLE with the SWEEP event, and then a dropped read
puts its word on the re-read list where an entry of it is UNKNOWN or UNVERIFIED; the order of the two is log entry 17's. -/
def Obligations.FetchReadFinishes : Prop :=
  ∀ (s : State) (e : Access) (rest : List Access) (stale : Bool) (data : BitVec 32) (check : BitVec 7)
      (finished : Fetch),
    s.up = true → s.memPort.inflight = e :: rest → e.op = .read stale → e.origin = .fetch →
    finished = { s.fetch with sweep := if s.fetch.sweep = .ending then .idle else s.fetch.sweep } →
    ∃ t : State, exec (.readCompletion data check) s = .next (s.settle t.grantIfDrained) ∧
      t.memPort = { s.memPort with inflight := rest } ∧
      t.mgmt = { s.mgmt with sweep := s.mgmt.sweep || decide (s.fetch.sweep = .ending) } ∧
      (stale = false → t.fetch = finished) ∧
      (∀ short : Prop,
        (short ↔ (∃ o, Straps.xpOffset s.straps e.addr = some o ∧
            (s.crosspointQuality o = .unknown ∨ ∃ h, s.crosspointQuality o = .unverified h)) ∨
          ∃ o, Straps.nameOffset s.straps e.addr = some o ∧
            (s.nameQuality o = .unknown ∨ ∃ h, s.nameQuality o = .unverified h)) → stale = true →
        (¬ short → t.fetch = finished) ∧
        (short → t.fetch = (State.addReread { s with fetch := finished } e.addr).fetch)) ∧
      (∀ p, t.port p = s.port p)

/-- The completion of a write: a posted one gives no answer, another is answered DONE, or FAIL if it was poisoned; the shadow
is touched by no more than the grant of a loan request that waited for this access. A completion that is not the oldest
access's own finds none to belong to, by the model's choice of log entry 7. -/
def Obligations.WriteCompletes : Prop :=
  ∀ (s : State) (e : Access) (rest : List Access), s.up = true → s.memPort.inflight = e :: rest →
    (∀ p w, e.op = .write w true → e.origin = .port p →
      exec .writeCompletion s =
        .next (s.settle (State.grantIfDrained { s with memPort := { s.memPort with inflight := rest } }))) ∧
    (∀ p w, e.op = .write w false → e.origin = .port p →
      exec .writeCompletion s =
        .next (s.settle (State.grantIfDrained
          { s.setPort p { s.port p with
              pending := none
              answers := (s.port p).answers ++ [if w.poisoned then Answer.fail else .done] } with
            memPort := { s.memPort with inflight := rest } }))) ∧
    (∀ stale, e.op = .read stale → exec .writeCompletion s = .next s) ∧
    (∀ w posted data check, e.op = .write w posted → exec (.readCompletion data check) s = .next s)

/-- The memory timeout empties the in-flight list and deals with each access in issue order, as AbandonedAccessByKind says of
one; each port with an answer outstanding in it is answered FAIL and freed, and its posted writes stay queued; a waiting loan
request is granted, and a freed port then takes what stands presented, port A first where both are freed (log entry 26). Before
the oldest access's deadline the command changes nothing, by the model's choice of log entry 7. -/
def Obligations.MemoryTimeoutAbandonsAll : Prop :=
  ∀ (s : State) (e : Access) (rest : List Access), s.up = true → s.memPort.inflight = e :: rest →
    (e.deadline ≤ s.now →
      ∃ t, exec .memoryTimeout s = .next (s.settle t) ∧
        t = State.grantIfDrained
          ((e :: rest).foldl State.abandon { s with memPort := { s.memPort with inflight := [] } }) ∧
        t.memPort = { s.memPort with inflight := [] } ∧
        (∀ p, (∃ x ∈ e :: rest, x.OwesAnswer p) →
          ∃ n, 1 ≤ n ∧
            t.port p = { s.port p with
              pending := none, answers := (s.port p).answers ++ List.replicate n .fail } ∧
            ((∃ l x r, e :: rest = l ++ x :: r ∧ ∀ y ∈ l ++ r, ¬ y.OwesAnswer p) → n = 1)) ∧
        (∀ p, (∀ x ∈ e :: rest, ¬ x.OwesAnswer p) → t.port p = s.port p) ∧
        t.loan = (if s.loan = .requested then .granted else s.loan) ∧
        s.Only [.portA, .portB, .memPort, .loan, .fetch, .mgmt, .faults, .shadow, .gather] t) ∧
    (s.now < e.deadline → exec .memoryTimeout s = .next s)

/-- What an abandoned access leaves, by its origin, kind and region: no entry but its word's changes, and a full re-read list is
emptied with IMAGE 0x41, the sweep restarted where the tracker is live and left where it is not. That a fetch read counts as
finished before its word joins the list is log entry 17's. -/
def Obligations.AbandonedAccessByKind : Prop :=
  ∀ (s : State) (e : Access) (kept : List WordAddr),
    kept = (if e.addr ∈ s.fetch.reread then s.fetch.reread
            else if s.fetch.reread.length < 16 then s.fetch.reread ++ [e.addr] else []) →
    (∀ p stale, e.origin = .port p → e.op = .read stale →
      s.abandon e = (s.setPort p { s.port p with
        pending := none, answers := (s.port p).answers ++ [.fail] }).recordFault
        .readMemoryTimeout (portOrigin p) (.word e.addr)) ∧
    (∀ stale, e.origin = .fetch → e.op = .read stale →
      (s.abandon e).shadow = s.shadow ∧ (s.abandon e).gather = s.gather ∧ (s.abandon e).fetch.reread = kept ∧
      (e.addr ∈ s.fetch.reread ∨ s.fetch.reread.length < 16 →
        (s.abandon e).fetch.sweep = if s.fetch.sweep = .ending then .idle else s.fetch.sweep) ∧
      (s.abandon e).mgmt = { s.mgmt with sweep := s.mgmt.sweep || decide (s.fetch.sweep = .ending) } ∧
      (s.abandon e).classState 3 = (s.classState 3).record
        { kind := .fetchTimeout, origin := .fetch, location := .word e.addr, tag := s.tag } ∧
      s.Only [.fetch, .mgmt, .faults] (s.abandon e)) ∧
    (∀ p w posted, e.origin = .port p → e.op = .write w posted → e.region = .outside →
      s.abandon e =
        if posted then s
        else s.setPort p { s.port p with pending := none, answers := (s.port p).answers ++ [.fail] }) ∧
    (∀ p w posted, e.origin = .port p → e.op = .write w posted → e.region ≠ .outside →
      (s.live = true → ∀ o, Straps.xpOffset s.straps e.addr = some o → (s.abandon e).crosspointQuality o = .suspect) ∧
      (s.live = true → ∀ o, Straps.nameOffset s.straps e.addr = some o → (s.abandon e).nameQuality o = .suspect) ∧
      (∀ j, Straps.xpOffset s.straps e.addr ≠ some j → (s.abandon e).crosspointQuality j = s.crosspointQuality j) ∧
      (∀ j, Straps.nameOffset s.straps e.addr ≠ some j → (s.abandon e).nameQuality j = s.nameQuality j) ∧
      (s.live = false → (s.abandon e).shadow = s.shadow ∧ (s.abandon e).gather = s.gather) ∧
      (s.abandon e).fetch.reread = kept ∧
      (e.addr ∈ s.fetch.reread ∨ s.fetch.reread.length < 16 → (s.abandon e).fetch.sweep = s.fetch.sweep) ∧
      (∀ q, q ≠ p → (s.abandon e).port q = s.port q) ∧
      (s.abandon e).port p =
        (if posted then s.port p
         else { s.port p with pending := none, answers := (s.port p).answers ++ [.fail] }) ∧
      (s.abandon e).classState 3 = (s.classState 3).record
        { kind := .regionWriteTimeout, origin := portOrigin p, location := .word e.addr, tag := s.tag } ∧
      s.Only [.portA, .portB, .shadow, .gather, .fetch, .faults] (s.abandon e)) ∧
    ((e.origin = .fetch ∧ ∃ stale, e.op = .read stale) ∨
        (∃ p w posted, e.origin = .port p ∧ e.op = .write w posted ∧ e.region ≠ .outside) →
      (∀ n, n ≠ 3 → n ≠ 4 → (s.abandon e).classState n = s.classState n) ∧
      (e.addr ∈ s.fetch.reread ∨ s.fetch.reread.length < 16 → (s.abandon e).classState 4 = s.classState 4) ∧
      (e.addr ∉ s.fetch.reread → 16 ≤ s.fetch.reread.length →
        (s.abandon e).classState 4 = (s.classState 4).record
          { kind := .rereadOverflow, origin := .fetch, location := .word e.addr, tag := s.tag } ∧
        (s.live = true → (s.abandon e).fetch.sweep =
          .running .crosspoint (BitVec.ofNat 22 (s.straps.xbase.toNat * 16384))) ∧
        (s.live = false → (s.abandon e).fetch.sweep =
          if e.origin = .fetch ∧ s.fetch.sweep = .ending then .idle else s.fetch.sweep)))

/-- LOANREQ asserted in NONE makes the request, granted in the same event with nothing in flight; the grant downgrades the
shadow and records IMAGE 0x40, and is made in whatever event empties the list in REQUESTED; LOANACK, LOANWANT and the drive of
the memory lines follow the loan state and the ports' candidates. LOANREQ deasserted, by the row of either name, ends a granted
loan and restarts the sweep, and withdraws a request with nothing else: the loan state found decides which (R53; log entry 8).
LOAN_GRANT commanded alone is the model's choice of log entry 9, from a state no run reaches, and a command whose event cannot
happen changes no more than the level of LOANREQ, log entry 7's. -/
def Obligations.LoanSteps : Prop :=
  (∀ s : State,
    (s.loanAck = true ↔ s.loan = .granted) ∧
    (s.loanWant = true ↔ s.loan = .granted ∧ ∃ p x, s.candidate p = some x) ∧
    (s.drivesMemory = true ↔ s.up = true ∧ s.loan ≠ .granted) ∧
    ∃ t, exec .rstnFall s = .next t ∧
      (s.up = true → t.loanAck = false ∧ t.loanWant = false ∧ t.drivesMemory = false)) ∧
  ∀ s : State, s.up = true →
    (s.loan = .none → s.memPort.inflight ≠ [] →
      exec .loanRequest s = .next { s with loanReq := true, loan := .requested }) ∧
    (s.loan = .none → s.memPort.inflight = [] →
      exec .loanRequest s =
        .next (State.recordFault { s with loanReq := true, loan := .granted, shadow := s.shadow.downgrade }
          .loanGranted .fetch s.fetch.sweep.location)) ∧
    (s.loan ≠ .none → exec .loanRequest s = .next { s with loanReq := true }) ∧
    (s.loan = .requested → s.memPort.inflight = [] →
      s.grantIfDrained =
        State.recordFault { s with loan := .granted, shadow := s.shadow.downgrade }
          .loanGranted .fetch s.fetch.sweep.location) ∧
    (s.loan ≠ .requested ∨ s.memPort.inflight ≠ [] → s.grantIfDrained = s) ∧
    (s.loan = .requested → s.memPort.inflight = [] →
      exec .loanGrant s =
        .next (State.recordFault { s with loan := .granted, shadow := s.shadow.downgrade }
          .loanGranted .fetch s.fetch.sweep.location)) ∧
    (s.loan ≠ .requested ∨ s.memPort.inflight ≠ [] → exec .loanGrant s = .next s) ∧
    ∀ c, c = .loanEnd ∨ c = .loanWithdrawal →
      (s.loan = .granted → s.live = true →
        exec c s =
          .next { s with
            loanReq := false, loan := .none
            fetch := { s.fetch with
              sweep := .running .crosspoint (BitVec.ofNat 22 (s.straps.xbase.toNat * 16384)) } }) ∧
      (s.loan = .granted → s.live = false → exec c s = .next { s with loanReq := false, loan := .none }) ∧
      (s.loan = .requested → exec c s = .next { s with loanReq := false, loan := .none }) ∧
      (s.loan = .none → exec c s = .next { s with loanReq := false })

/-- The downgrade of R17: VERIFIED becomes UNVERIFIED with its value kept, every other entry keeps its quality, and no tracked
value changes; RESYNC and the loan grant, in whatever event it falls, make it and report nothing. -/
def Obligations.DowngradeKeepsTrackedValues : Prop :=
  ∀ s : State,
    (∀ o h, s.crosspointQuality o = .verified h → Table.get .unknown s.shadow.downgrade.crosspoints o = .unverified h) ∧
    (∀ o, (∀ h, s.crosspointQuality o ≠ .verified h) →
      Table.get .unknown s.shadow.downgrade.crosspoints o = s.crosspointQuality o) ∧
    (∀ o h, s.nameQuality o = .verified h → Table.get .unknown s.shadow.downgrade.names o = .unverified h) ∧
    (∀ o, (∀ h, s.nameQuality o ≠ .verified h) →
      Table.get .unknown s.shadow.downgrade.names o = s.nameQuality o) ∧
    (s.up = true → s.loan = .none → s.memPort.inflight = [] →
      ∃ t, exec .loanRequest s = .next t ∧ t.loan = .granted ∧ t.shadow = s.shadow.downgrade ∧
        t.gather = s.gather ∧ ∀ e, t.tracked e = s.tracked e) ∧
    (s.loan = .requested → s.memPort.inflight = [] →
      s.grantIfDrained.loan = .granted ∧ s.grantIfDrained.shadow = s.shadow.downgrade ∧
        s.grantIfDrained.gather = s.gather ∧ ∀ e, s.grantIfDrained.tracked e = s.tracked e) ∧
    (s.Awaits [0x40] → s.device ≠ .selftest →
      ∃ t, exec .resync s = .next t ∧ t.shadow = s.shadow.downgrade ∧ t.gather = s.gather ∧
        ∀ e, t.tracked e = s.tracked e)

/-! ### Integrity unit -/

/-- One fault recorded: its class's counter, capture record and pending bit, with the other classes as they were; a HALT
fault makes the device HALTED; with RSTN low no fault is recorded. -/
def Obligations.FaultRecordInItsClass : Prop :=
  (∀ (s : State) (k : FaultKind) (o : Origin) (l : Location),
    (∀ n, n = k.cls.number →
      ((s.recordFault k o l).classState n).count = min ((s.classState n).count + 1) 65535 ∧
      ((s.classState n).capture = none →
        ((s.recordFault k o l).classState n).capture =
          some { kind := k, origin := o, location := l, tag := s.frame.count.extractLsb' 0 16 }) ∧
      (∀ c, (s.classState n).capture = some c → ((s.recordFault k o l).classState n).capture = some c) ∧
      ((s.recordFault k o l).classState n).pending = true) ∧
    (∀ n, n ≠ k.cls.number → (s.recordFault k o l).classState n = s.classState n) ∧
    s.Only [.faults] (s.recordFault k o l)) ∧
  (∀ k : FaultKind, k.cls.number = k.code.toNat / 16) ∧
  (∀ (s : State) (k : FaultKind) (l : Location),
    (s.recordHalt k l).device = .halted ∧ (s.recordHalt k l).faults = (s.recordFault k .selftest l).faults ∧
    (s.device ≠ .halted → ∀ c, c < 16 → (s.recordHalt k l).chan c = (s.chan c).stopEffects) ∧
    s.Only [.device, .faults, .chans] (s.recordHalt k l)) ∧
  (∀ (c : Instr) (s t : State), s.device = .inReset → (∀ pins, c ≠ .rstnRise pins) → exec c s = .next t →
    t.faults = s.faults)

/-! ### Frame reference -/

/-- The expiry of E in ABSENT makes a switch point and computes E anew from it. That the command acts as of E when it is taken
later, and changes nothing before E or outside ABSENT, is the model's choice of log entry 7. -/
def Obligations.FreeRunningSwitchPoint : Prop :=
  ∀ s : State, s.up = true →
    (s.frame.state = .absent → s.frame.expected ≤ s.now →
      ∃ t, exec .freeRunningSwitchPoint s = .next t ∧ s.MadeSwitchPoint t ∧
        t.frame = { s.frame with
          lastSwitch := s.frame.expected
          expected := s.frame.expected + s.params.p0
          halfWidth := s.params.p0 / 128
          latest := some s.frame.expected
          count := s.frame.count + 1 } ∧
        s.Only [.frame, .gather, .fanout, .faults, .chans] t) ∧
    (s.frame.state ≠ .absent ∨ s.now < s.frame.expected → exec .freeRunningSwitchPoint s = .next s)

/-- A pulse in the window makes a switch point at its own time, locks, and raises REFERENCE if the state was FLYWHEEL. The order
of the channels' faults is the model's choice of log entry 10. -/
def Obligations.PulseAccepted : Prop :=
  ∀ s : State, s.up = true → s.frame.state ≠ .absent → s.frame.expected ≤ s.now + s.frame.halfWidth →
    s.now ≤ s.frame.expected + s.frame.halfWidth →
    ∃ t, exec .refinPulse s = .next t ∧ s.MadeSwitchPoint t ∧
      t.frame = { s.frame with
        state := .locked
        lastSwitch := s.now
        expected := s.now + s.params.p0
        halfWidth := s.params.p0 / 128
        latest := some s.now
        candidates := []
        count := s.frame.count + 1 } ∧
      t.mgmt = { s.mgmt with reference := s.mgmt.reference || decide (s.frame.state = .flywheel) } ∧
      s.Only [.frame, .gather, .fanout, .faults, .chans, .mgmt] t

/-- A pulse outside the window joins the candidates, counted as noise outside ABSENT; in ABSENT and FLYWHEEL three in a row at
the frame spacing re-acquire, with a switch point unless one was made at this instant. A pulse after the window's end, which
the window's expiry comes before, is taken as rejected by the model's choice (log entry 24). -/
def Obligations.PulseRejectedOrReacquired : Prop :=
  ∀ s : State, s.up = true → s.OutsideWindow →
    ∀ noise, noise = (if s.frame.state = .absent then s.frame.noise else min (s.frame.noise + 1) 65535) →
    (s.frame.state = .locked ∨ (∀ c1 c2, s.joined = [c1, c2, s.now] →
        ¬ (FrameSpaced s.params.p0 c1 c2 ∧ FrameSpaced s.params.p0 c2 s.now)) →
      exec .refinPulse s = .next { s with frame := { s.frame with candidates := s.joined, noise := noise } }) ∧
    (∀ c1 c2, s.frame.state ≠ .locked → s.joined = [c1, c2, s.now] → FrameSpaced s.params.p0 c1 c2 →
      FrameSpaced s.params.p0 c2 s.now →
      (s.frame.latest ≠ some s.now →
        ∃ t, exec .refinPulse s = .next t ∧ s.MadeSwitchPoint t ∧
          t.frame = { state := .locked, lastSwitch := s.now, expected := s.now + s.params.p0,
                      halfWidth := s.params.p0 / 128, latest := some s.now, candidates := [], noise := noise,
                      count := s.frame.count + 1 } ∧
          t.mgmt = { s.mgmt with reference := true } ∧
          s.Only [.frame, .gather, .fanout, .faults, .chans, .mgmt] t) ∧
      (s.frame.latest = some s.now →
        exec .refinPulse s = .next { s with
          frame := { state := .locked, lastSwitch := s.now, expected := s.now + s.params.p0,
                     halfWidth := s.params.p0 / 128, latest := some s.now, candidates := [], noise := noise,
                     count := s.frame.count },
          mgmt := { s.mgmt with reference := true } }))

/-- The window's expiry makes a flywheel switch point at its end, counts the next frame from E, and raises REFERENCE on
leaving LOCKED. That the command acts as of E + w when it is taken later, and changes nothing before E + w or in ABSENT, is the
model's choice of log entry 7. -/
def Obligations.WindowExpires : Prop :=
  ∀ s : State, s.up = true →
    (s.frame.state ≠ .absent → s.frame.expected + s.frame.halfWidth ≤ s.now →
      ∃ t, exec .windowExpiry s = .next t ∧ s.MadeSwitchPoint t ∧
        t.frame = { s.frame with
          state := .flywheel
          lastSwitch := s.frame.expected
          expected := s.frame.expected + s.params.p0
          halfWidth := s.params.p0 / 128
          latest := some (s.frame.expected + s.frame.halfWidth)
          count := s.frame.count + 1 } ∧
        t.mgmt = { s.mgmt with reference := s.mgmt.reference || decide (s.frame.state = .locked) } ∧
        s.Only [.frame, .gather, .fanout, .faults, .chans, .mgmt] t) ∧
    (s.frame.state = .absent ∨ s.now < s.frame.expected + s.frame.halfWidth → exec .windowExpiry s = .next s)

/-! ### Gather and fan-out -/

/-- The close of the gather at a switch point that has set F: bounces are left out and counted, the rest form record F, which
joins the take queue; an idle fan-out engine takes it up at its first item with a visit, or finishes it. -/
def Obligations.GatherCloses : Prop :=
  ∀ (s : State) (items : List (Entry × Value)), s.gather.takeQueue.length < 4 →
    items = (s.gather.dirty.filter fun p => decide (s.tracked p.1 ≠ p.2)).map (fun p => (p.1, s.tracked p.1)) →
    s.gatherSwitchPoint.gather.dirty = [] ∧
    s.gatherSwitchPoint.gather.late = s.gather.late ∧
    s.gatherSwitchPoint.gather.bounced =
      min (s.gather.bounced + (s.gather.dirty.filter fun p => decide (s.tracked p.1 = p.2)).length) 65535 ∧
    (items = [] →
      s.gatherSwitchPoint.gather.takeQueue = s.gather.takeQueue ∧ s.gatherSwitchPoint.fanout = s.fanout) ∧
    (items ≠ [] → s.fanout.isSome = true →
      s.gatherSwitchPoint.gather.takeQueue = s.gather.takeQueue ++ [{ number := s.frame.count, changes := items }] ∧
      s.gatherSwitchPoint.fanout = s.fanout) ∧
    (items ≠ [] → s.fanout = none → s.gather.takeQueue = [] →
      (∀ i e v, items[i]? = some (e, v) → (s.nextVisit e none).isSome = true →
        (∀ j f w, j < i → items[j]? = some (f, w) → s.nextVisit f none = none) →
        s.gatherSwitchPoint.gather.takeQueue = [{ number := s.frame.count, changes := items }] ∧
        s.gatherSwitchPoint.fanout = some { item := i, position := none }) ∧
      ((∀ p ∈ items, s.nextVisit p.1 none = none) →
        s.gatherSwitchPoint.gather.takeQueue = [] ∧ s.gatherSwitchPoint.fanout = none)) ∧
    (∀ e, s.gatherSwitchPoint.onAir e = s.tracked e) ∧
    s.Only [.gather, .fanout] s.gatherSwitchPoint

/-- A change report joins the dirty list once, with its before value; a switch point that finds four records waiting keeps the
gather open and records IMAGE 0x42. -/
def Obligations.DirtyListAndLateTake : Prop :=
  ∀ s : State,
    (∀ e v, (∀ p ∈ s.gather.dirty, p.1 ≠ e) →
      s.report e v = { s with gather := { s.gather with dirty := s.gather.dirty ++ [(e, v)] } } ∧
      (s.report e v).onAir e = v) ∧
    (∀ e v, (∃ p ∈ s.gather.dirty, p.1 = e) → s.report e v = s) ∧
    (4 ≤ s.gather.takeQueue.length →
      s.gatherSwitchPoint =
        State.recordFault { s with gather := { s.gather with late := min (s.gather.late + 1) 65535 } } .lateTake
          .reference .absent ∧
      ∀ e, s.gatherSwitchPoint.onAir e = s.onAir e)

/-- The visit of a crosspoint change at the first pair after the engine's position: the tile takes the new value and the take
number only from a later record, and its tile number joins the queue of a RUNNING or LOST channel. The item, and the record with
its last item, end in the event of the last visit: the engine then stands at the next item that has a visit, in this record or
in one behind it, those with none finished, or is idle (log entry 18, deduced). -/
def Obligations.CrosspointVisit : Prop :=
  ∀ (s : State) (at_ : Fanout) (r : TakeRecord) (rest : List TakeRecord) (e : Crosspoint) (v : Value) (c t : Nat),
    s.up = true → s.fanout = some at_ → s.gather.takeQueue = r :: rest →
    r.changes[at_.item]? = some (.crosspoint e, v) → c < 16 → t < 64 →
    (∀ p, at_.position = some p → p < 64 * c + t) → ((s.chan c).tile t).assignment = some e →
    (∀ j, j < 64 * c + t → (∀ p, at_.position = some p → p < j) → (s.slotTile j).assignment ≠ some e) →
    ∃ u, exec .crosspointVisit s = .next u ∧
      (((s.chan c).tile t).take.toNat < r.number.toNat →
        ((u.chan c).tile t).assignment = some e ∧ ((u.chan c).tile t).take = r.number ∧
        (∀ x, v = .route x → ((u.chan c).tile t).current = .known x) ∧
        (v = .unknown → ((u.chan c).tile t).current = .unknown) ∧
        (∀ j, j ≠ t → ((u.chan c).tile j).assignment = ((s.chan c).tile j).assignment ∧
          ((u.chan c).tile j).current = ((s.chan c).tile j).current ∧
          ((u.chan c).tile j).take = ((s.chan c).tile j).take) ∧
        Channel.Appended
          ((s.chan c).setTile t { (s.chan c).tile t with current := v.tileState, take := r.number }) (u.chan c) s.label
          s.now t false) ∧
      (r.number.toNat ≤ ((s.chan c).tile t).take.toNat → u.chans = s.chans) ∧
      s.OtherChannels c u ∧
      ((∃ j, 64 * c + t < j ∧ j < 1024 ∧ (s.slotTile j).assignment = some e) →
        u.fanout = some { item := at_.item, position := some (64 * c + t) } ∧ u.gather = s.gather) ∧
      ((∀ j, 64 * c + t < j → j < 1024 → (s.slotTile j).assignment ≠ some e) → s.MovesOn u r rest at_.item) ∧
      s.Only [.chans, .gather, .fanout] u

/-- The visit of a name change at the first assigned slot after the engine's position that shows the source: no tile state
changes, and the tile joins its queue with its label mark set. The item, and the record with its last item, end in the event of
the last visit, as for a crosspoint change (log entry 18, deduced). An idle engine makes no visit (log entry 7). -/
def Obligations.NameVisit : Prop :=
  (∀ (s : State) (at_ : Fanout) (r : TakeRecord) (rest : List TakeRecord) (n : Nat) (v : Value) (c t : Nat) (x : Route),
    s.up = true → s.fanout = some at_ → s.gather.takeQueue = r :: rest →
    r.changes[at_.item]? = some (.source n, v) → c < 16 → t < 64 →
    (∀ p, at_.position = some p → p < 64 * c + t) →
    ((s.chan c).tile t).assignment.isSome = true → ((s.chan c).tile t).current = .known x → x.source.toNat = n →
    (∀ j, j < 64 * c + t → (∀ p, at_.position = some p → p < j) → s.showsSource n j = false) →
    ∃ u, exec .nameChangeVisit s = .next u ∧
      (∀ j, ((u.chan c).tile j).assignment = ((s.chan c).tile j).assignment ∧
        ((u.chan c).tile j).current = ((s.chan c).tile j).current ∧
        ((u.chan c).tile j).take = ((s.chan c).tile j).take) ∧
      Channel.Appended (s.chan c) (u.chan c) s.label s.now t true ∧
      s.OtherChannels c u ∧
      ((∃ j, 64 * c + t < j ∧ j < 1024 ∧ s.showsSource n j = true) →
        u.fanout = some { item := at_.item, position := some (64 * c + t) } ∧ u.gather = s.gather) ∧
      ((∀ j, 64 * c + t < j → j < 1024 → s.showsSource n j = false) → s.MovesOn u r rest at_.item) ∧
      s.Only [.chans, .gather, .fanout] u) ∧
  (∀ s : State, s.fanout = none →
    exec .nameChangeVisit s = .next s ∧ exec .crosspointVisit s = .next s)

/-! ### Channel units at a switch point -/

/-- What a switch point does at one channel, by its state: nothing while it rests; in STARTING the next HELLO due or, with
eight made due, the timeout; in LOST the FRAME mark; in RUNNING the STATUS accounting, then the refresh tick, then the FRAME
mark, which begins on a free transmitter and waits behind a message. -/
def Obligations.SwitchPointAtChannel : Prop :=
  ∀ (ch : Channel) (c now : Nat) (tag : BitVec 16),
    (ch.Resting → ch.switchPoint c now tag = (ch, [])) ∧
    (ch.state = .starting → ch.helloCount < 8 →
      (ch.tx = none →
        ch.switchPoint c now tag = (({ ch with helloCount := ch.helloCount + 1 }).helloed c now, [])) ∧
      (ch.tx ≠ none →
        ch.switchPoint c now tag = ({ ch with helloCount := ch.helloCount + 1, helloPending := true }, []))) ∧
    (ch.state = .starting → 8 ≤ ch.helloCount → ch.switchPoint c now tag = (ch.stopEffects, [.noPartner])) ∧
    (ch.state = .lost →
      (ch.tx = none → ch.switchPoint c now tag = (ch.framed now tag, [])) ∧
      (ch.tx ≠ none → ch.switchPoint c now tag = ({ ch with framePending := some tag }, []))) ∧
    (ch.state = .running → ∀ (counted ticked : Channel) (first second : List FaultKind),
      (ch.heard = false → 3 ≤ ch.missing →
        counted = { ch with state := .lost, missing := 4, hold := false, heldFrames := 0 } ∧ first = [.statusLost]) →
      (ch.heard = true ∨ ch.missing < 3 →
        counted = { ch with
            missing := if ch.heard = true then ch.missing else ch.missing + 1
            heldFrames := if ch.hold = true then min (ch.heldFrames + 1) 16 else ch.heldFrames
            heard := false } ∧
          first = if ch.hold = true ∧ ch.heldFrames = 15 then [.endpointStalled] else []) →
      (ch.ticks + 1 < ch.interval → ticked = { counted with ticks := ch.ticks + 1 } ∧ second = []) →
      (ch.interval ≤ ch.ticks + 1 →
        (ch.debt < 7 → ticked = { counted with ticks := 0, debt := ch.debt + 1 } ∧ second = []) ∧
        (ch.debt = 7 → ticked = { counted with ticks := 0, debt := 8, forced := true } ∧ second = []) ∧
        (8 ≤ ch.debt → ticked = { counted with ticks := 0 } ∧ second = [.refreshOverrun])) →
      (ch.tx = none → ch.switchPoint c now tag = (ticked.framed now tag, first ++ second)) ∧
      (ch.tx ≠ none → ch.switchPoint c now tag = ({ ticked with framePending := some tag }, first ++ second)))

/-- STATUS_LOST, ENDPOINT_STALLED, STARTING_TIMEOUT and DEBT_TICK commanded alone, by the model's choice of log entry 9: each
takes its part of a switch point at one channel where it is due, with the frame tag as it stands, and otherwise nothing. -/
def Obligations.SwitchPointPartsAlone : Prop :=
  ∀ (c : Fin 16) (s : State), s.up = true →
    ((s.chan c).state = .running → (s.chan c).heard = false → 3 ≤ (s.chan c).missing →
      ∃ t, exec (.statusLost c) s = .next t ∧
        t.chan c = { s.chan c with state := .lost, missing := 4, hold := false, heldFrames := 0 } ∧
        t.classState 2 = (s.classState 2).record
          { kind := .statusLost, origin := .channel, location := .channel c, tag := s.tag } ∧
        s.OtherChannels c t ∧ s.Only [.chans, .faults] t) ∧
    ((s.chan c).state ≠ .running ∨ (s.chan c).heard = true ∨ (s.chan c).missing < 3 →
      exec (.statusLost c) s = .next s) ∧
    ((s.chan c).state = .running → (s.chan c).heard = true ∨ (s.chan c).missing < 3 → (s.chan c).hold = true →
      (s.chan c).heldFrames = 15 →
      ∃ t, exec (.endpointStalled c) s = .next t ∧
        t.chan c = { s.chan c with
          missing := if (s.chan c).heard = true then (s.chan c).missing else (s.chan c).missing + 1
          heldFrames := 16
          heard := false } ∧
        t.classState 2 = (s.classState 2).record
          { kind := .endpointStalled, origin := .channel, location := .channel c, tag := s.tag } ∧
        s.OtherChannels c t ∧ s.Only [.chans, .faults] t) ∧
    ((s.chan c).state ≠ .running ∨ (s.chan c).hold = false ∨ (s.chan c).heldFrames ≠ 15 ∨
        ((s.chan c).heard = false ∧ 3 ≤ (s.chan c).missing) →
      exec (.endpointStalled c) s = .next s) ∧
    ((s.chan c).state = .starting → 8 ≤ (s.chan c).helloCount →
      ∃ t, exec (.startingTimeout c) s = .next t ∧ t.chan c = (s.chan c).stopEffects ∧
        t.classState 2 = (s.classState 2).record
          { kind := .noPartner, origin := .channel, location := .channel c, tag := s.tag } ∧
        s.OtherChannels c t ∧ s.Only [.chans, .faults] t) ∧
    ((s.chan c).state ≠ .starting ∨ (s.chan c).helloCount < 8 → exec (.startingTimeout c) s = .next s) ∧
    ((s.chan c).state = .running → (s.chan c).interval ≤ (s.chan c).ticks + 1 →
      ∃ t, exec (.debtTick c) s = .next t ∧
        ((s.chan c).debt < 7 →
          t.chan c = { s.chan c with ticks := 0, debt := (s.chan c).debt + 1 } ∧ t.faults = s.faults) ∧
        ((s.chan c).debt = 7 →
          t.chan c = { s.chan c with ticks := 0, debt := 8, forced := true } ∧ t.faults = s.faults) ∧
        ((s.chan c).debt = 8 →
          t.chan c = { s.chan c with ticks := 0 } ∧
          t.classState 2 = (s.classState 2).record
            { kind := .refreshOverrun, origin := .channel, location := .channel c, tag := s.tag }) ∧
        s.OtherChannels c t ∧ s.Only [.chans, .faults] t) ∧
    ((s.chan c).state ≠ .running ∨ (s.chan c).ticks + 1 < (s.chan c).interval → exec (.debtTick c) s = .next s)

/-! ### Transmitter, refresh and digest -/

/-- The end of a message: a pending FRAME mark begins, else a pending HELLO; a channel that may take no slot decision is left
with its transmitter free. The levels of a transmit line: mark while RSTN is low, the park level of a resting channel, and
otherwise mark and the bits of the message, start bit, data bits from bit 0 on and stop bit, in the polarity that the message's
begin took from TXINV. That the command changes nothing before the message's end is the model's choice of log entry 7. -/
def Obligations.MessageEnd : Prop :=
  (∀ (c : Fin 16) (s : State) (m : Transmission), s.up = true → (s.chan c).tx = some m →
    (m.endsAt ≤ s.now →
      ∃ t, exec (.messageEnd c) s = .next t ∧
        (∀ tag, (s.chan c).framePending = some tag →
          t.chan c = ({ s.chan c with tx := none }).framed s.now tag) ∧
        ((s.chan c).framePending = none → (s.chan c).helloPending = true →
          t.chan c = ({ s.chan c with tx := none }).helloed c s.now) ∧
        ((s.chan c).framePending = none → (s.chan c).helloPending = false →
          (s.chan c).state ≠ .running ∨ (s.chan c).hold = true ∨ (s.chan c).slots = 0 →
          t.chan c = { s.chan c with tx := none }) ∧
        s.OtherChannels c t ∧ s.Only [.chans] t) ∧
    (s.now < m.endsAt → exec (.messageEnd c) s = .next s)) ∧
  (∀ (s : State) (c : Nat),
    (s.up = false → s.txLevels c = [true]) ∧
    (s.up = true → (s.chan c).tx = none → (s.chan c).Resting → s.txLevels c = [(s.chan c).options.getLsbD 2]) ∧
    (s.up = true → (s.chan c).tx = none → ¬ (s.chan c).Resting → s.txLevels c = [!(s.chan c).txInverted]) ∧
    (∀ m, s.up = true → (s.chan c).tx = some m →
      (s.txLevels c).length = 10 * m.bytes.length ∧
      ∀ i b, m.bytes[i]? = some b →
        ((s.txLevels c).drop (10 * i)).take 10 =
          ([false] ++ (List.range 8).map b.getLsbD ++ [true]).map fun bit => bit != (s.chan c).txInverted)) ∧
  ∀ (ch : Channel) (now : Nat) (bytes : List Byte),
    ch.beginMessage now bytes =
      { ch with tx := some { bytes, endsAt := now + 5 * bytes.length }, txInverted := ch.options.getLsbD 0 }

/-- A change NOTICE begun for the head of the queue at the end of a message: its bytes from the tile record and the label, the
last-sent state, the digest, the counts and the slot count; and the label of a known tile, from the on-air name. -/
def Obligations.ChangeNoticeBegins : Prop :=
  (∀ (c : Fin 16) (s : State) (m : Transmission) (n : Notice) (rest : List Notice) (x : Tile) (body : List Byte),
    s.up = true → (s.chan c).tx = some m → m.endsAt ≤ s.now → (s.chan c).framePending = none →
    (s.chan c).helloPending = false → (s.chan c).state = .running → (s.chan c).hold = false → 1 ≤ (s.chan c).slots →
    (s.chan c).forced = false → (s.chan c).queue = n :: rest → x = (s.chan c).tile n.tile →
    x.current ≠ x.lastSent ∨ n.label = true →
    (∀ r, x.current = .known r →
      body = [if r.protect then 0x01 else 0x00] ++ bytes2 (r.source.setWidth 16) ++
        bytes2 (x.take.extractLsb' 0 16) ++ s.label (.known r)) →
    (x.current = .unknown → body = [0x02, 0, 0] ++ bytes2 (x.take.extractLsb' 0 16) ++ questionMarks) →
    (x.current = .unassigned → body = [0x04, 0, 0] ++ bytes2 (x.take.extractLsb' 0 16) ++ spaces) →
    ∃ t, exec (.messageEnd c) s = .next t ∧
      t.chan c = { (s.chan c).setTile n.tile { x with lastSent := x.current } with
        tx := some { bytes := withCheck ([0xA3, BitVec.ofNat 8 n.tile] ++ body), endsAt := s.now + 80 }
        txInverted := (s.chan c).txinv
        queue := rest
        digest := ((s.chan c).digest + (n.tile + 1) * x.current.word + 65521 -
          ((n.tile + 1) * x.lastSent.word) % 65521) % 65521
        slots := (s.chan c).slots - 1
        changeCount := min ((s.chan c).changeCount + 1) 65535 } ∧
      s.OtherChannels c t ∧ s.Only [.chans] t) ∧
  (∀ (s : State) (r : Route),
    (Straps.sources s.straps ≤ r.source.toNat → s.label (.known r) = List.replicate 8 0x20) ∧
    (r.source.toNat < Straps.sources s.straps → s.onAir (.source r.source.toNat) = .unknown →
      s.label (.known r) = List.replicate 8 0x3F) ∧
    (∀ n, r.source.toNat < Straps.sources s.straps → s.onAir (.source r.source.toNat) = .name n →
      s.label (.known r) = (wordChars n.first ++ wordChars n.second).map fun b =>
        if 0x20 ≤ b.toNat ∧ b.toNat ≤ 0x7E then b else 0x3F))

/-- The slot decision of a channel that may take one: a refresh step at the first tile that is assigned and not queued, forced,
in progress, owed or pulled in; the completion of a refresh that finds none, after which the decision is taken again; the NOTICE
for a head that differs; a head dropped because its states are equal, after which the decision is taken again; a slot left
unused. A message that ends with no FRAME mark and no HELLO pending leads to it. Every label has eight bytes. -/
def Obligations.SlotPrecedence : Prop :=
  (∀ (c : Fin 16) (s : State) (m : Transmission), s.up = true → (s.chan c).tx = some m → m.endsAt ≤ s.now →
    (s.chan c).framePending = none → (s.chan c).helloPending = false →
    ∃ u, exec (.messageEnd c) s = .next u ∧ s.OtherChannels c u ∧ s.Only [.chans] u ∧
      u.chan c = ({ s.chan c with tx := none }).slotDecision s.label s.now) ∧
  (∀ (s : State) (x : TileState), (s.label x).length = 8 ∧ s.label .unknown = List.replicate 8 0x3F ∧
    s.label .unassigned = List.replicate 8 0x20) ∧
  ∀ (ch u : Channel) (names : TileState → List Byte) (now : Nat), (∀ x, (names x).length = 8) →
    u = ch.slotDecision names now →
    (ch.state ≠ .running ∨ ch.hold = true ∨ ch.NoSlot → u = ch) ∧
    (ch.state = .running → ch.hold = false → ¬ ch.NoSlot →
      (ch.forced = true ∨ ch.queue = [] ∧ (ch.cursor.isSome = true ∨ 1 ≤ ch.debt ∨ ch.pullin = true ∧ -8 < ch.debt) →
        (∀ t, ch.cursor.getD 0 ≤ t → t < ch.tc → (ch.tile t).assignment.isSome = true →
          (∀ n ∈ ch.queue, n.tile ≠ t) →
          (∀ j, ch.cursor.getD 0 ≤ j → j < t → (ch.tile j).assignment = none ∨ ∃ n ∈ ch.queue, n.tile = j) →
          u = ch.refreshed names now t) ∧
        (ch.RefreshDone → u = ch.refreshEnded.slotDecision names now)) ∧
      (ch.forced = false → ∀ n rest, ch.queue = n :: rest →
        ((ch.tile n.tile).current ≠ (ch.tile n.tile).lastSent ∨ n.label = true →
          u = { ch.noticed names now n.tile false with
            queue := rest, changeCount := min (ch.changeCount + 1) 65535 }) ∧
        ((ch.tile n.tile).current = (ch.tile n.tile).lastSent → n.label = false →
          u = ({ ch with queue := rest, droppedEqual := min (ch.droppedEqual + 1) 65535 }).slotDecision names now)) ∧
      (ch.forced = false → ch.queue = [] → ch.cursor = none → ch.debt ≤ 0 → ch.pullin = false ∨ ch.debt = -8 → u = ch) ∧
      (ch.forced = false → ch.queue = [] → ch.cursor = none → ch.debt ≤ 0 → ch.pullin = true → -8 < ch.debt →
        (∀ j, j < ch.tc → (ch.tile j).assignment = none) →
        u = { ch with debt := -8, refreshes := min (ch.refreshes + (ch.debt + 8).toNat) 65535 }))

/-! ### Return line -/

/-- A STATUS received whole on an idle receiver, by the channel's state: the record, the link state, the comparison with the
snapshot of the echoed tag, and the slot decision of a return, a cleared hold or a forced refresh; a bad check is only counted.
One decision that follows the comparison is log entry 19's reading, and a STATUS together with the START CHANNELS of a LISTENING
channel is settled by log entry 25. -/
def Obligations.StatusByChannelState : Prop :=
  ∀ (c : Fin 16) (s : State) (g : StatusBytes) (r : StatusRecord) (noted : Channel), s.up = true →
    (s.chan c).rx = .idle → (s.chan c).rxAwaitMark = false → g.kind = 0xB1 →
    r = { tag := g.tagHigh ++ g.tagLow, digest := g.digestHigh ++ g.digestLow, hold := g.flags.getLsbD 0,
          capacity := g.capacity } →
    noted = { s.chan c with statusCount := min ((s.chan c).statusCount + 1) 65535, lastStatus := some r } →
    ∃ t, exec (.status c g) s = .next t ∧ s.OtherChannels c t ∧ s.Only [.chans, .faults] t ∧
      (g.kind + g.tagHigh + g.tagLow + g.digestHigh + g.digestLow + g.flags + g.capacity + g.check ≠ 0 →
        t.chan c = { s.chan c with returnErrors := min ((s.chan c).returnErrors + 1) 65535 } ∧
        t.faults = s.faults) ∧
      (g.kind + g.tagHigh + g.tagLow + g.digestHigh + g.digestLow + g.flags + g.capacity + g.check = 0 →
        ((s.chan c).state = .stopped → t.chan c = noted ∧ t.faults = s.faults) ∧
        ((s.chan c).state = .listening →
          t.chan c = (if s.device = .halted then noted
            else { noted with state := .starting, helloCount := 0, startedAt := none }) ∧
          t.faults = s.faults) ∧
        ((s.chan c).state = .starting → (s.chan c).startedAt = some s.now → t.chan c = noted ∧ t.faults = s.faults) ∧
        ((s.chan c).state = .starting ∧ (s.chan c).startedAt ≠ some s.now ∨ (s.chan c).state = .lost →
          ∀ entered, entered = { noted with
              state := .running
              helloPending := false
              missing := 0
              heard := true
              hold := r.hold
              heldFrames := 0
              forced := true
              cursor := if (s.chan c).cursor = none then none else some 0 } →
            t.chan c = entered.slotDecision s.label s.now ∧ t.faults = s.faults ∧
            ((s.chan c).NoSlot → t.chan c = entered)) ∧
        ((s.chan c).state = .running →
          ∀ (linked : Channel) (decided : Channel → Channel), linked = { noted with
              heard := true
              missing := 0
              hold := r.hold
              heldFrames := if (s.chan c).hold = true ∧ r.hold = true then (s.chan c).heldFrames else 0 } →
            (∀ x : Channel, decided x =
              if (s.chan c).hold = true ∧ r.hold = false then x.slotDecision s.label s.now else x) →
            ((∀ x ∈ (s.chan c).snapshots, x.tag ≠ r.tag) →
              t.chan c = decided { linked with staleCount := min ((s.chan c).staleCount + 1) 65535 } ∧
              t.faults = s.faults) ∧
            (∀ x, (s.chan c).snapshots.find? (fun y => y.tag == r.tag) = some x →
              (x.comparable = false → t.chan c = decided linked ∧ t.faults = s.faults) ∧
              (x.comparable = true → x.digest = r.digest.toNat →
                t.chan c = decided { linked with mismatch := 0 } ∧ t.faults = s.faults) ∧
              (x.comparable = true → x.digest ≠ r.digest.toNat → (s.chan c).mismatch = 0 →
                t.chan c = decided { linked with mismatch := 1 } ∧ t.faults = s.faults) ∧
              (x.comparable = true → x.digest ≠ r.digest.toNat → (s.chan c).mismatch = 1 →
                ∀ repaired, repaired = { linked with
                    mismatch := 0
                    forced := true
                    cursor := if (s.chan c).cursor = none then none else some 0 } →
                  t.chan c = repaired.slotDecision s.label s.now ∧
                  t.classState 2 = (s.classState 2).record
                    { kind := .digestMismatch, origin := .channel, location := .channel c, tag := s.tag }))))

/-- The events of a return line: framing errors, unknown types, the bytes of a STATUS, the gap's expiry and the line's return
to mark; a receiver that waits for mark takes no byte. A valid eighth byte is the STATUS of R157, as if all its bytes had come
together. A byte whose start bit came after the gap finds the bytes before it discarded and counted (log entry 13, deduced). -/
def Obligations.ReturnLineBytes : Prop :=
  ∀ (c : Fin 16) (s : State) (b : Byte), s.up = true →
    (∃ t, exec (.lineReturnedToMark c) s = .next t ∧ t.chan c = { s.chan c with rxWire := !(s.chan c).rxinv } ∧
      (t.chan c).rxAwaitMark = false ∧ s.OtherChannels c t ∧ s.Only [.chans] t) ∧
    (∀ bytes lastEnd, (s.chan c).rx = .assembling bytes lastEnd →
      (lastEnd + 50 ≤ s.now →
        ∃ t, exec (.returnGapExpiry c) s = .next t ∧
          t.chan c = { s.chan c with rx := .idle, returnErrors := min ((s.chan c).returnErrors + 1) 65535 } ∧
          s.OtherChannels c t ∧ s.Only [.chans] t) ∧
      (s.now < lastEnd + 50 → exec (.returnGapExpiry c) s = .next s)) ∧
    ((s.chan c).rx = .idle → exec (.returnGapExpiry c) s = .next s) ∧
    (∃ t u v, exec (.framingError c) s = .next t ∧ exec (.unknownType c b) s = .next u ∧
      exec (.returnByte c b) s = .next v ∧ s.OtherChannels c t ∧ s.OtherChannels c u ∧ s.OtherChannels c v ∧
      s.Only [.chans] t ∧ s.Only [.chans, .faults] u ∧ s.Only [.chans, .faults] v ∧
      ((s.chan c).rxAwaitMark = true → t.chan c = s.chan c ∧ u.chan c = s.chan c ∧ v.chan c = s.chan c) ∧
      ((s.chan c).rxAwaitMark = false →
        ((s.chan c).rx = .idle →
          t.chan c = { s.chan c with
            rxWire := (s.chan c).rxinv, returnErrors := min ((s.chan c).returnErrors + 1) 65535 } ∧
          (t.chan c).rxAwaitMark = true ∧
          (b ≠ 0xB1 →
            u.chan c = { s.chan c with returnErrors := min ((s.chan c).returnErrors + 1) 65535 }) ∧
          (b = 0xB1 → v.chan c = { s.chan c with rx := .assembling [b] s.now })) ∧
        (∀ bytes lastEnd, (s.chan c).rx = .assembling bytes lastEnd → s.now ≤ lastEnd + 55 →
          t.chan c = { s.chan c with
            rx := .idle, rxWire := (s.chan c).rxinv, returnErrors := min ((s.chan c).returnErrors + 1) 65535 } ∧
          (bytes.length < 7 → v.chan c = { s.chan c with rx := .assembling (bytes ++ [b]) s.now }) ∧
          (bytes.length = 7 → (bytes ++ [b]).foldl (· + ·) 0 ≠ 0 →
            v.chan c = { s.chan c with
              rx := .idle, returnErrors := min ((s.chan c).returnErrors + 1) 65535 })) ∧
        (∀ bytes lastEnd, (s.chan c).rx = .assembling bytes lastEnd → lastEnd + 55 < s.now →
          t.chan c = { s.chan c with
            rx := .idle
            rxWire := (s.chan c).rxinv
            returnErrors := min (min ((s.chan c).returnErrors + 1) 65535 + 1) 65535 } ∧
          (b = 0xB1 →
            v.chan c = { s.chan c with
              rx := .assembling [b] s.now, returnErrors := min ((s.chan c).returnErrors + 1) 65535 }) ∧
          (b ≠ 0xB1 →
            u.chan c = { s.chan c with
              rx := .idle, returnErrors := min (min ((s.chan c).returnErrors + 1) 65535 + 1) 65535 } ∧
            v.chan c = u.chan c)))) ∧
    ∀ (g : StatusBytes) (lastEnd : Nat), (s.chan c).rxAwaitMark = false → g.kind = 0xB1 →
      (s.chan c).rx = .assembling
        [g.kind, g.tagHigh, g.tagLow, g.digestHigh, g.digestLow, g.flags, g.capacity] lastEnd →
      s.now ≤ lastEnd + 55 →
      g.kind + g.tagHigh + g.tagLow + g.digestHigh + g.digestLow + g.flags + g.capacity + g.check = 0 →
      exec (.returnByte c g.check) s = exec (.status c g) (s.setChan c { s.chan c with rx := .idle })

/-! ### Management port -/

/-- A transaction begins on an idle port and ends from any; an unfinished command is discarded with it. In between, the bytes
of a command are held until the last of them, and only all of them together make it, by its code; it then executes, its status
and data stand to be shifted out, and the bytes that follow shift them out and are ignored. MDO is driven in a transaction only
and carries 0x00 but for status and data. That MDO is not driven in an idle port of a part with RSTN high, MCS low as RSTN rose
included, is the model's choice of log entry 27: R169 has it so while MCS is high and R170 while RSTN is low. That
TRANSACTION_BEGIN in an open transaction changes nothing, and how bytes come as commands, are the model's choices of log
entry 14. -/
def Obligations.TransactionFrame : Prop :=
  (∀ s : State, s.up = true →
    (s.mgmt.spi = .idle →
      exec .transactionBegin s = .next { s with mgmt := { s.mgmt with spi := .transaction [] none } } ∧
      s.mdo = none) ∧
    (s.mgmt.spi ≠ .idle → exec .transactionBegin s = .next s) ∧
    exec .transactionEnd s = .next { s with mgmt := { s.mgmt with spi := .idle } } ∧
    (∀ held, s.mgmt.spi = .transaction held none → s.mdo = some 0 ∧
      ∀ b, commandOf none (held ++ [b]) = none → exec (.unknownCommand b) s =
        .next { s with mgmt := { s.mgmt with spi := .transaction (held ++ [b]) none } }) ∧
    (∀ held out, s.mgmt.spi = .transaction held (some out) →
      s.mdo = some (match out with
        | [] => 0
        | b :: _ => b) ∧
      ∀ b, exec (.unknownCommand b) s =
        .next { s with mgmt := { s.mgmt with spi := .transaction held (some (out.drop 1)) } })) ∧
  ∀ (c : Instr) (bytes : List Byte), c.bytes = some bytes →
    (∃ line, commandOf line bytes = some c) ∧
    (∀ line k, k < bytes.length → commandOf line (bytes.take k) = none) ∧
    ∀ s : State,
      (s.Awaits bytes →
        ∃ t reply, exec c s = .next t ∧ t.mgmt.spi = .transaction bytes (some reply) ∧ reply ≠ []) ∧
      (s.mgmt.spi = .idle → exec c s = .next s) ∧
      (∀ held out, s.up = true → s.mgmt.spi = .transaction held (some out) →
        exec c s = .next { s with mgmt := { s.mgmt with spi := .transaction held (some (out.drop bytes.length)) } })

/-- The read commands and an unknown code: the status byte and the data, field by field, and nothing else in the part
changes. With bytes held that are not the beginning of theirs, their bytes are not theirs (log entry 14); of the last STATUS's
flags the hold flag is returned (log entry 20). -/
def Obligations.ReadsReplyAndChangeNothing : Prop :=
  ∀ s : State,
    (s.Awaits [0x01] →
      exec .identify s = .next (s.replied [0x01] [0x00, 0x54, 0x72, 0x40, 0x03, s.straps.xbase, s.straps.nbase,
        BitVec.ofBool s.straps.eccen ++ BitVec.ofBool s.straps.post ++ s.straps.ssel ++ s.straps.lsel ++ s.straps.dsel,
        0#6 ++ BitVec.ofBool s.straps.bist ++ BitVec.ofBool s.straps.aparen])) ∧
    (s.Awaits [0x02] →
      ∀ device reference loan sweep : Byte, ∀ position : List Byte, ∀ count : Quality Unit → Nat,
        (s.device = .selftest → device = 1) → (s.device = .operating → device = 2) → (s.device = .halted → device = 3) →
        (s.frame.state = .absent → reference = 0) → (s.frame.state = .locked → reference = 1) →
        (s.frame.state = .flywheel → reference = 2) →
        (s.loan = .none → loan = 0) → (s.loan = .requested → loan = 1) → (s.loan = .granted → loan = 2) →
        (s.fetch.sweep = .idle → sweep = 0 ∧ position = [0xFF, 0xFF, 0xFF]) →
        (s.fetch.sweep = .ending → sweep = 2 ∧ position = [0xFF, 0xFF, 0xFF]) →
        (∀ region a, s.fetch.sweep = .running region a → sweep = 1 ∧ position = bytes3 (a.setWidth 24)) →
        s.Canonical → s.ShadowInRegions →
        (∀ q, count q =
          ((List.range (Straps.xpLen s.straps)).filter fun o => (s.crosspointQuality o).kind = q).length +
            ((List.range (Straps.nameLen s.straps)).filter fun o => (s.nameQuality o).kind = q).length) →
        exec .readStatus s = .next (s.replied [0x02] ([0x00, device, reference] ++ bytes4 s.frame.count ++
          bytes2Of s.frame.noise ++ [loan, sweep] ++ position ++ bytes2Of (count .unknown) ++
          bytes2Of (count (.unverified ())) ++ bytes2Of (count (.verified ())) ++ bytes2Of (count .suspect) ++
          [byteOf s.fetch.reread.length, byteOf s.gather.takeQueue.length] ++ bytes2Of s.gather.dirty.length ++
          bytes2Of s.gather.late ++ bytes2Of s.gather.bounced ++
          [byteOf s.portA.queue.length, byteOf s.portB.queue.length, s.eventBits]))) ∧
    (∀ cls : Byte, s.Awaits [0x03, cls] →
      (5 < cls.toNat → exec (.readFault cls) s = .next (s.replied [0x03, cls] [0x02])) ∧
      (cls.toNat ≤ 5 →
        ((s.classState cls.toNat).capture = none →
          exec (.readFault cls) s =
            .next (s.replied [0x03, cls] [0x00, 0, 0, 0, 0xFF, 0xFF, 0xFF, 0, 0, 0, 0])) ∧
        (∀ x, (s.classState cls.toNat).capture = some x →
          exec (.readFault cls) s =
            .next (s.replied [0x03, cls] ([0x00, 1, x.kind.code, x.origin.number] ++ x.location.bytes ++
              bytes2 x.tag ++ bytes2 (BitVec.ofNat 16 (s.classState cls.toNat).count)))))) ∧
    (∀ number chan : Byte, s.Awaits [0x11, number, chan] →
      (paramOf number = none → exec (.getParam number chan) s = .next (s.replied [0x11, number, chan] [0x02])) ∧
      (∀ p, paramOf number = some p → p.perChannel = true → 15 < chan.toNat →
        exec (.getParam number chan) s = .next (s.replied [0x11, number, chan] [0x02])) ∧
      (∀ p, paramOf number = some p → p.perChannel = false ∨ chan.toNat ≤ 15 →
        exec (.getParam number chan) s = .next (s.replied [0x11, number, chan]
          (0x00 :: bytes2 (BitVec.ofNat 16 (s.paramValue p chan.toNat)))))) ∧
    (∀ chan tile : Byte, s.Awaits [0x22, chan, tile] →
      (15 < chan.toNat ∨ 63 < tile.toNat →
        exec (.readTile chan tile) s = .next (s.replied [0x22, chan, tile] [0x02])) ∧
      (chan.toNat ≤ 15 → tile.toNat ≤ 63 →
        ∀ (x : Tile) (fields : TileState → List Byte) (slot : List Byte) (queued mark : Byte),
          x = (s.chan chan.toNat).tile tile.toNat →
          fields .unassigned = [0, 0, 0, 0] → fields .unknown = [2, 0, 0, 0] →
          (∀ r, fields (.known r) = [1] ++ bytes2 (r.source.setWidth 16) ++ [if r.protect then 1 else 0]) →
          (x.assignment = none → slot = [0, 0, 0, 0]) →
          (∀ e, x.assignment = some e → slot = [1, byteOf e.level] ++ bytes2Of e.dest) →
          queued = (if ∃ n ∈ (s.chan chan.toNat).queue, n.tile = tile.toNat then 1 else 0) →
          mark = (if ∃ n ∈ (s.chan chan.toNat).queue, n.tile = tile.toNat ∧ n.label = true then 1 else 0) →
          exec (.readTile chan tile) s = .next (s.replied [0x22, chan, tile]
            ([0x00] ++ slot ++ fields x.current ++ bytes4 x.take ++ fields x.lastSent ++ [queued, mark])))) ∧
    (∀ chan : Byte, s.Awaits [0x32, chan] →
      (15 < chan.toNat → exec (.readChannel chan) s = .next (s.replied [0x32, chan] [0x02])) ∧
      (chan.toNat ≤ 15 →
        ∀ (ch : Channel) (state cursor forced flags : Byte) (last : List Byte), ch = s.chan chan.toNat →
          (ch.state = .stopped → state = 0) → (ch.state = .listening → state = 1) →
          (ch.state = .starting → state = 2) → (ch.state = .running → state = 3) → (ch.state = .lost → state = 4) →
          (ch.cursor = none → cursor = 0xFF) → (∀ k, ch.cursor = some k → cursor = byteOf k) →
          forced = (if ch.forced = true then 1 else 0) →
          flags = 0#5 ++ BitVec.ofBool ch.hold ++ BitVec.ofBool ch.heard ++ BitVec.ofBool ch.helloPending →
          (ch.lastStatus = none → last = [0, 0, 0, 0, 0, 0, 0]) →
          (∀ r, ch.lastStatus = some r →
            last = [1] ++ bytes2 r.tag ++ bytes2 r.digest ++ [if r.hold then 1 else 0, r.capacity]) →
          exec (.readChannel chan) s = .next (s.replied [0x32, chan]
            ([0x00, state, byteOf ch.queue.length, byteOf ch.slots, cursor, forced, BitVec.ofInt 8 ch.debt] ++
              bytes2Of ch.ticks ++ bytes2Of ch.digest ++
              [byteOf ch.mismatch, byteOf ch.helloCount, flags, byteOf ch.missing, byteOf ch.heldFrames] ++ last ++
              bytes2Of ch.statusCount ++ bytes2Of ch.returnErrors ++ bytes2Of ch.frameCount ++
              bytes2Of ch.changeCount ++ bytes2Of ch.superseded ++ bytes2Of ch.droppedEqual ++
              bytes2Of ch.refreshNotices ++ bytes2Of ch.refreshes ++ bytes2Of ch.staleCount)))) ∧
    (∀ code : Byte, argumentBytes code = none → s.Awaits [code] →
      exec (.unknownCommand code) s = .next (s.replied [code] [0x04])) ∧
    (∀ held, s.mgmt.spi = .transaction held none → ∀ (c : Instr) (bytes : List Byte), c.bytes = some bytes →
      (∀ code, c ≠ .unknownCommand code) → ¬ held <+: bytes → exec c s = .next s)

/-- CLEAR EVENTS clears the classes of its mask whole and keeps the others, with the device state; a fault that follows is
captured afresh. -/
def Obligations.ClearEventsClearsMaskedClasses : Prop :=
  ∀ (mask : Byte) (s : State), s.Awaits [0x04, mask] →
    ∃ t, exec (.clearEvents mask) s = .next t ∧
      (∀ n, n < 6 → mask.getLsbD n = true →
        (t.classState n).pending = false ∧ (t.classState n).capture = none ∧ (t.classState n).count = 0) ∧
      (∀ n, n < 6 → mask.getLsbD n = false → t.classState n = s.classState n) ∧
      t.mgmt = { s.mgmt with
        spi := .transaction [0x04, mask] (some [0x00])
        reference := s.mgmt.reference && !mask.getLsbD 6
        sweep := s.mgmt.sweep && !mask.getLsbD 7 } ∧
      (∀ k o l, mask.getLsbD k.cls.number = true →
        (t.recordFault k o l).classState k.cls.number =
          { pending := true, capture := some { kind := k, origin := o, location := l, tag := s.tag }, count := 1 }) ∧
      s.Only [.faults, .mgmt] t

/-- SET IRQ MASK replaces the mask; MIRQ is driven low exactly while a bit is set among the pending bits and in the mask. -/
def Obligations.IrqMaskAndMirq : Prop :=
  (∀ (mask : Byte) (s : State), s.Awaits [0x05, mask] →
    exec (.setIrqMask mask) s =
      .next (State.replied { s with mgmt := { s.mgmt with irqMask := mask } } [0x05, mask] [0x00])) ∧
  (∀ s : State, s.up = true →
    (s.mirqLow = true ↔ ∃ n, n < 8 ∧ s.eventBit n = true ∧ s.mgmt.irqMask.getLsbD n = true)) ∧
  (∀ s : State,
    (∀ n, n < 6 → s.eventBit n = (s.classState n).pending) ∧ s.eventBit 6 = s.mgmt.reference ∧
      s.eventBit 7 = s.mgmt.sweep)

/-- SET PARAM: the range checks, the value stored moved to the nearer limit of its range, the Tc check, and the options with
what a change of WATCH and of RXINV does. -/
def Obligations.SetParamStores : Prop :=
  ∀ (number chan : Byte) (value : BitVec 16) (onLine : Option Bool) (s : State) (received : List Byte), s.Awaits received →
    received = [0x10, number, chan] ++ bytes2 value →
    (paramOf number = none →
      exec (.setParam number chan value onLine) s = .next (s.replied received [0x02])) ∧
    (number = 16 ∨ number = 17 ∨ number = 18 ∨ number = 19 → 15 < chan.toNat →
      exec (.setParam number chan value onLine) s = .next (s.replied received [0x02])) ∧
    (∀ v, v = min (max value.toNat 10000) 50000 → number = 0 →
      exec (.setParam number chan value onLine) s =
        .next (State.replied { s with params := { s.params with p0 := v } } received
          [if v = value.toNat then 0x00 else 0x01])) ∧
    (∀ v, v = min value.toNat 255 → number = 1 →
      exec (.setParam number chan value onLine) s =
        .next (State.replied { s with params := { s.params with ls := v } } received
          [if v = value.toNat then 0x00 else 0x01])) ∧
    (∀ v, v = min (max value.toNat 1) 255 → number = 2 →
      exec (.setParam number chan value onLine) s =
        .next (State.replied { s with params := { s.params with tm := v } } received
          [if v = value.toNat then 0x00 else 0x01])) ∧
    (∀ v, v = max value.toNat 10 → number = 3 →
      exec (.setParam number chan value onLine) s =
        .next (State.replied { s with params := { s.params with ta := v } } received
          [if v = value.toNat then 0x00 else 0x01])) ∧
    (chan.toNat ≤ 15 →
      (∀ v, v = min (max value.toNat 1) 64 → number = 16 →
        ((∃ t, v ≤ t ∧ t < 64 ∧ ((s.chan chan.toNat).tile t).assignment.isSome = true) →
          exec (.setParam number chan value onLine) s = .next (s.replied received [0x03])) ∧
        ((∀ t, v ≤ t → t < 64 → ((s.chan chan.toNat).tile t).assignment = none) →
          ∃ u, exec (.setParam number chan value onLine) s = .next u ∧
            u.mgmt = (s.replied received [if v = value.toNat then 0x00 else 0x01]).mgmt ∧
            u.chan chan.toNat = { s.chan chan.toNat with tc := v } ∧
            s.OtherChannels chan.toNat u ∧ s.Only [.chans, .mgmt] u)) ∧
      (∀ v, v = min (max value.toNat 1) 64 → number = 17 →
        ∃ u, exec (.setParam number chan value onLine) s = .next u ∧
          u.mgmt = (s.replied received [if v = value.toNat then 0x00 else 0x01]).mgmt ∧
          u.chan chan.toNat = { s.chan chan.toNat with budget := v } ∧
          s.OtherChannels chan.toNat u ∧ s.Only [.chans, .mgmt] u) ∧
      (∀ v, v = min (max value.toNat 8) 1024 → number = 18 →
        ∃ u, exec (.setParam number chan value onLine) s = .next u ∧
          u.mgmt = (s.replied received [if v = value.toNat then 0x00 else 0x01]).mgmt ∧
          u.chan chan.toNat = { s.chan chan.toNat with interval := v } ∧
          s.OtherChannels chan.toNat u ∧ s.Only [.chans, .mgmt] u) ∧
      (number = 19 →
        ∃ u, exec (.setParam number chan value onLine) s = .next u ∧
          u.mgmt = (s.replied received [0x00]).mgmt ∧
          (∀ rested, rested = { s.chan chan.toNat with
              options := value.extractLsb' 0 5
              state := if (s.chan chan.toNat).Resting then (if value.getLsbD 3 then .listening else .stopped)
                       else (s.chan chan.toNat).state
              txInverted := if (s.chan chan.toNat).tx = none ∧ value.getLsbD 0 ≠ (s.chan chan.toNat).txinv
                            then value.getLsbD 0 else (s.chan chan.toNat).txInverted } →
            (onLine = none ∨ value.getLsbD 1 = (s.chan chan.toNat).rxinv ∨
                (s.chan chan.toNat).rxAwaitMark = true → u.chan chan.toNat = rested) ∧
            (∀ level, onLine = some level → value.getLsbD 1 ≠ (s.chan chan.toNat).rxinv →
              (s.chan chan.toNat).rxAwaitMark = false →
              u.chan chan.toNat = { rested with
                rx := .idle
                returnErrors := min ((s.chan chan.toNat).returnErrors + 1) 65535
                rxWire := level })) ∧
          ((u.chan chan.toNat).rxAwaitMark = true ↔ (u.chan chan.toNat).rxWire = value.getLsbD 1) ∧
          s.OtherChannels chan.toNat u ∧ s.Only [.chans, .mgmt] u))

/-- ASSIGN: its two checks in order; then the assignment, the on-air value with take number F, and the append. -/
def Obligations.AssignTakesOnAirValue : Prop :=
  ∀ (chan tile level : Byte) (dest : BitVec 16) (s : State) (received : List Byte), s.Awaits received →
    received = [0x20, chan, tile, level] ++ bytes2 dest →
    (15 < chan.toNat ∨ (s.chan chan.toNat).tc ≤ tile.toNat ∨ Straps.levels s.straps ≤ level.toNat ∨
        Straps.dests s.straps ≤ dest.toNat →
      exec (.assign chan tile level dest) s = .next (s.replied received [0x02])) ∧
    (chan.toNat ≤ 15 → tile.toNat < (s.chan chan.toNat).tc → level.toNat < Straps.levels s.straps →
      dest.toNat < Straps.dests s.straps →
      (s.device = .halted → exec (.assign chan tile level dest) s = .next (s.replied received [0x03])) ∧
      (s.device ≠ .halted →
        ∀ e mid, e = { level := level.toNat, dest := dest.toNat } →
          mid = (s.chan chan.toNat).setTile tile.toNat { (s.chan chan.toNat).tile tile.toNat with
            assignment := some e
            current := (match s.onAir (.crosspoint e) with
              | .route r => .known r
              | .unknown => .unknown
              | .name _ => .unknown)
            take := s.frame.count } →
          ∃ u, exec (.assign chan tile level dest) s = .next u ∧ u.mgmt = (s.replied received [0x00]).mgmt ∧
            ((u.chan chan.toNat).tile tile.toNat).assignment = some e ∧
            ((u.chan chan.toNat).tile tile.toNat).current = (mid.tile tile.toNat).current ∧
            ((u.chan chan.toNat).tile tile.toNat).take = s.frame.count ∧
            (tile.toNat < 64 → ∀ f, 64 * chan.toNat + tile.toNat ∈ u.subscribers f ↔ f = e) ∧
            (∀ j, j ≠ tile.toNat →
              ((u.chan chan.toNat).tile j).assignment = ((s.chan chan.toNat).tile j).assignment ∧
              ((u.chan chan.toNat).tile j).current = ((s.chan chan.toNat).tile j).current ∧
              ((u.chan chan.toNat).tile j).take = ((s.chan chan.toNat).tile j).take) ∧
            Channel.Appended mid (u.chan chan.toNat) s.label s.now tile.toNat false ∧
            s.OtherChannels chan.toNat u ∧ s.Only [.chans, .mgmt] u))

/-- UNASSIGN: its two checks in order, in every device state; then no assignment, the unassigned state with take number F,
and the append. -/
def Obligations.UnassignFreesTheSlot : Prop :=
  ∀ (chan tile : Byte) (s : State), s.Awaits [0x21, chan, tile] →
    (15 < chan.toNat ∨ (s.chan chan.toNat).tc ≤ tile.toNat →
      exec (.unassign chan tile) s = .next (s.replied [0x21, chan, tile] [0x02])) ∧
    (chan.toNat ≤ 15 → tile.toNat < (s.chan chan.toNat).tc →
      (((s.chan chan.toNat).tile tile.toNat).assignment = none →
        exec (.unassign chan tile) s = .next (s.replied [0x21, chan, tile] [0x03])) ∧
      (∀ e, ((s.chan chan.toNat).tile tile.toNat).assignment = some e →
        ∀ mid, mid = (s.chan chan.toNat).setTile tile.toNat { (s.chan chan.toNat).tile tile.toNat with
            assignment := none, current := .unassigned, take := s.frame.count } →
          ∃ u, exec (.unassign chan tile) s = .next u ∧
            u.mgmt = (s.replied [0x21, chan, tile] [0x00]).mgmt ∧
            ((u.chan chan.toNat).tile tile.toNat).assignment = none ∧
            ((u.chan chan.toNat).tile tile.toNat).current = .unassigned ∧
            ((u.chan chan.toNat).tile tile.toNat).take = s.frame.count ∧
            (tile.toNat < 64 → ∀ f, 64 * chan.toNat + tile.toNat ∉ u.subscribers f) ∧
            (∀ j, j ≠ tile.toNat →
              ((u.chan chan.toNat).tile j).assignment = ((s.chan chan.toNat).tile j).assignment ∧
              ((u.chan chan.toNat).tile j).current = ((s.chan chan.toNat).tile j).current ∧
              ((u.chan chan.toNat).tile j).take = ((s.chan chan.toNat).tile j).take) ∧
            Channel.Appended mid (u.chan chan.toNat) s.label s.now tile.toNat false ∧
            s.OtherChannels chan.toNat u ∧ s.Only [.chans, .mgmt] u))

/-- START CHANNELS is refused in HALTED; otherwise each resting channel of the mask becomes STARTING with HELLO count 0 and
HELLO pending clear, and every other channel is as it was; the time at which a LISTENING channel was started is kept for log
entry 25. -/
def Obligations.StartChannels : Prop :=
  ∀ (mask : BitVec 16) (s : State), s.Awaits ([0x30] ++ bytes2 mask) →
    (s.device = .halted → exec (.startChannels mask) s = .next (s.replied ([0x30] ++ bytes2 mask) [0x03])) ∧
    (s.device ≠ .halted →
      ∃ t, exec (.startChannels mask) s = .next t ∧ t.mgmt = (s.replied ([0x30] ++ bytes2 mask) [0x00]).mgmt ∧
        (∀ c, c < 16 →
          (mask.getLsbD c = true → (s.chan c).Resting →
            t.chan c = { s.chan c with
              state := .starting, helloCount := 0, helloPending := false
              startedAt := if (s.chan c).state = .listening then some s.now else none }) ∧
          (mask.getLsbD c = true → ¬ (s.chan c).Resting → t.chan c = s.chan c) ∧
          (mask.getLsbD c = false → t.chan c = s.chan c) ∧
          ((s.chan c).QuietOffAir → (s.chan c).Resting → (t.chan c).queue = [] ∧ (t.chan c).slots = 0 ∧
            (t.chan c).digest = 0 ∧ (t.chan c).snapshots = [])) ∧
        s.Only [.chans, .mgmt] t)

/-- STOP CHANNELS makes the stop effects on each channel of its mask, in every device state; every other channel is as it
was. -/
def Obligations.StopChannels : Prop :=
  ∀ (mask : BitVec 16) (s : State), s.Awaits ([0x31] ++ bytes2 mask) →
    ∃ t, exec (.stopChannels mask) s = .next t ∧ t.mgmt = (s.replied ([0x31] ++ bytes2 mask) [0x00]).mgmt ∧
      (∀ c, c < 16 → mask.getLsbD c = true →
        (∀ j, j < 64 → (t.chan c).tile j = { (s.chan c).tile j with lastSent := .unassigned }) ∧
        t.chan c = { s.chan c with
          tiles := (t.chan c).tiles
          state := if (s.chan c).options.getLsbD 3 then .listening else .stopped
          queue := []
          slots := 0
          framePending := none
          ticks := 0
          debt := 0
          forced := false
          cursor := none
          mismatch := 0
          digest := 0
          snapshots := []
          helloCount := 0
          helloPending := false
          heard := false
          missing := 0
          hold := false
          heldFrames := 0 }) ∧
      (∀ c, c < 16 → mask.getLsbD c = false → t.chan c = s.chan c) ∧
      s.Only [.chans, .mgmt] t

/-- RESYNC is refused in SELFTEST; otherwise it downgrades the shadow and restarts the sweep, reporting nothing. -/
def Obligations.ResyncDowngradesAndRestarts : Prop :=
  ∀ s : State, s.Awaits [0x40] →
    (s.device = .selftest → exec .resync s = .next (s.replied [0x40] [0x03])) ∧
    (s.device = .operating ∨ s.device = .halted →
      exec .resync s = .next (State.replied { s with
        shadow := s.shadow.downgrade
        fetch := { s.fetch with sweep := .running .crosspoint (BitVec.ofNat 22 (s.straps.xbase.toNat * 16384)) } }
        [0x40] [0x00]))

/-- SOFT RESET: what it clears, what it sets each tile and each channel to, and what it keeps. -/
def Obligations.SoftResetClearsAndKeeps : Prop :=
  ∀ s : State, s.Awaits [0x7E] →
    ∃ t, exec .softReset s = .next t ∧
      t.shadow = { crosspoints := [], names := [] } ∧
      t.memPort = { s.memPort with inflight := s.memPort.inflight.map fun e =>
        match e.op with
        | .read stale => { e with op := .read (stale || decide (e.region ≠ .outside)) }
        | .write _ _ => e } ∧
      t.fetch.reread = [] ∧
      (s.device = .operating ∨ s.device = .halted →
        t.fetch.sweep = .running .crosspoint (BitVec.ofNat 22 (s.straps.xbase.toNat * 16384))) ∧
      (s.device = .selftest → t.fetch.sweep = .idle) ∧
      t.gather = { dirty := [], takeQueue := [], late := 0, bounced := 0 } ∧ t.fanout = none ∧
      (∀ n, t.classState n = { pending := false, capture := none, count := 0 }) ∧
      t.mgmt = { s.mgmt with
        spi := .transaction [0x7E] (some [0x00]), reference := false, sweep := false } ∧
      (∀ c, c < 16 →
        t.chan c = { (s.chan c).stopEffects with tiles := (t.chan c).tiles } ∧
        (∀ j, j < 64 →
          (t.chan c).tile j = { (s.chan c).tile j with
            current := if ((s.chan c).tile j).assignment = none then .unassigned else .unknown
            take := s.frame.count
            lastSent := .unassigned })) ∧
      (∀ e, t.tracked e = .unknown) ∧
      s.Only [.shadow, .memPort, .fetch, .gather, .fanout, .faults, .mgmt, .chans] t

/-! ### Check code -/

/-- The check code corrects every single-bit error among the 39 bits and detects every double-bit error; a poisoned word is
uncorrectable at its decode. -/
def Obligations.CheckCodeCorrectsAndDetects : Prop :=
  ∀ data : BitVec 32,
    (eccDecode data (encodeCheck data)).outcome = .clean ∧
    (∀ n, n < 39 →
      eccDecode (flipBit (data, encodeCheck data) n).1 (flipBit (data, encodeCheck data) n).2 =
        { outcome := .corrected, data := data, check := encodeCheck data }) ∧
    (∀ n m, n < 39 → m < 39 → n ≠ m →
      (eccDecode (flipBit (flipBit (data, encodeCheck data) n) m).1
        (flipBit (flipBit (data, encodeCheck data) n) m).2).outcome = .uncorrectable) ∧
    (eccDecode data (poisonCheck data)).outcome = .uncorrectable

/-! ### Conditions every step keeps -/

/-- The pending bit of a fault class is set exactly while its capture record is present and its counter is 1 or more. -/
def Obligations.FaultClassesStayConsistent : Prop :=
  ∀ s t : State, s.FaultsConsistent → step s = .next t → t.FaultsConsistent

/-- Only CLEAR EVENTS with the class in its mask, SOFT RESET and RSTN clear a fault class; nothing else takes a capture record
away or lowers a counter. -/
def Obligations.FaultsStandUntilCleared : Prop :=
  ∀ (c : Instr) (s t : State) (n : Nat) (x : Capture), n < 6 → exec c s = .next t → s.FaultsConsistent →
    (s.classState n).capture = some x →
    (∀ mask, c = .clearEvents mask → mask.getLsbD n = false) → c ≠ .softReset → c ≠ .rstnFall →
    (∀ pins, c ≠ .rstnRise pins) →
    (t.classState n).capture = some x ∧ (t.classState n).pending = true ∧ (s.classState n).count ≤ (t.classState n).count

/-- The bounds of the stores hold from step to step: accesses in flight and the loan, the posted-write queues, requests standing
presented only behind a pending one, the re-read list, the take queue with the fan-out engine, the form of the tables, and the
shadow's words, which are those of the two regions. -/
def Obligations.StoresStaySound : Prop :=
  ∀ s t : State, step s = .next t →
    (s.BusSound → t.BusSound) ∧ (s.QueuesWithinDepth → t.QueuesWithinDepth) ∧ (s.FetchSound → t.FetchSound) ∧
      (s.TakesSound → t.TakesSound) ∧ (s.Canonical → t.Canonical) ∧ (s.RequestsInTurn → t.RequestsInTurn) ∧
      (s.ShadowInRegions → t.ShadowInRegions)

/-- The digest stays the sum over the last-sent words, with the notice queue free of repeats, from step to step. -/
def Obligations.DigestStaysTheSum : Prop :=
  ∀ s t : State, s.DigestsSound → step s = .next t → t.DigestsSound

/-- In HALTED every channel rests; the counts of every channel stay in range; a channel off the air stays quiet. -/
def Obligations.ChannelsStaySound : Prop :=
  ∀ s t : State, step s = .next t →
    (s.HaltedRests → t.HaltedRests) ∧ (s.CountsInRange → t.CountsInRange) ∧ (s.QuietOffAir → t.QuietOffAir)

/-- Between switch points no on-air value moves: every command that makes none, a rejected pulse and an expiry that is not due
among them, with the resets and the end of the self-test aside, leaves the on-air value of every entry the part tracks as it
was. -/
def Obligations.OnAirMovesOnlyAtSwitchPoints : Prop :=
  ∀ (c : Instr) (s t : State) (e : Entry), exec c s = .next t → s.Tracks e →
    c ≠ .rstnFall → (∀ pins, c ≠ .rstnRise pins) → (∀ pass, c ≠ .selftestCompletion pass) → c ≠ .softReset →
    t.frame.count = s.frame.count →
    t.onAir e = s.onAir e

/-- The reset state, the model's choice of log entry 3, meets every condition. -/
def Obligations.ResetMeetsEveryCondition : Prop :=
  State.reset.FaultsConsistent ∧ State.reset.BusSound ∧ State.reset.QueuesWithinDepth ∧ State.reset.FetchSound ∧
    State.reset.TakesSound ∧ State.reset.Canonical ∧ State.reset.HaltedRests ∧ State.reset.DigestsSound ∧
    State.reset.CountsInRange ∧ State.reset.QuietOffAir ∧ State.reset.RequestsInTurn ∧
    State.reset.ShadowInRegions
end

