-- ==== Sys2Proof/Laws/Table.lean ====
section
/-! SUPPORT. The laws of tables: a read after a write, a write leaves every other key alone, and every operation keeps the
canonical form. -/

namespace Sys2Proof

variable {α : Type}

@[simp] theorem Table.get_nil (d : α) (k : Nat) : Table.get d [] k = d := rfl

theorem Table.get_cons (d : α) (j : Nat) (v : α) (t : Table α) (k : Nat) :
    Table.get d ((j, v) :: t) k = if j = k then v else Table.get d t k := rfl

theorem Table.get_insertSorted (d : α) (k : Nat) (v : α) (t : Table α) (h : ∀ p ∈ t, p.1 ≠ k) (j : Nat) :
    Table.get d (Table.insertSorted k v t) j = if k = j then v else Table.get d t j := by
  induction t with
  | nil => rfl
  | cons p t ih =>
    obtain ⟨i, w⟩ := p
    have hi : i ≠ k := h (i, w) List.mem_cons_self
    have ht : ∀ p ∈ t, p.1 ≠ k := fun p hp => h p (List.mem_cons_of_mem _ hp)
    simp only [Table.insertSorted]
    split
    · rfl
    · simp only [Table.get_cons, ih ht]
      by_cases hk : k = j
      · subst hk
        simp [hi]
      · simp [hk]

theorem Table.get_filter_ne (d : α) (t : Table α) (k j : Nat) :
    Table.get d (t.filter fun p => p.1 != k) j = if k = j then d else Table.get d t j := by
  induction t with
  | nil => simp
  | cons p t ih =>
    obtain ⟨i, w⟩ := p
    by_cases hi : i = k
    · subst hi
      simp only [List.filter_cons, bne_self_eq_false, Bool.false_eq_true, if_false, ih, Table.get_cons]
      by_cases hj : i = j <;> simp [hj]
    · have : (i != k) = true := by simpa using hi
      simp only [List.filter_cons, this, if_true, Table.get_cons, ih]
      by_cases hj : k = j
      · subst hj
        simp [hi]
      · simp [hj]

/-- A read after a write: the written key gives the written value, and every other key what it gave before. -/
theorem Table.get_set [DecidableEq α] (d : α) (t : Table α) (k : Nat) (v : α) (j : Nat) :
    Table.get d (Table.set d t k v) j = if k = j then v else Table.get d t j := by
  simp only [Table.set]
  split
  · subst_vars
    exact Table.get_filter_ne v t k j
  · rw [Table.get_insertSorted]
    · by_cases h : k = j <;> simp [h, Table.get_filter_ne]
    · intro p hp
      have := (List.mem_filter.mp hp).2
      simpa using this

@[simp] theorem Table.get_set_same [DecidableEq α] (d : α) (t : Table α) (k : Nat) (v : α) :
    Table.get d (Table.set d t k v) k = v := by simp [Table.get_set]

theorem Table.get_set_other [DecidableEq α] (d : α) (t : Table α) {k j : Nat} (v : α) (h : k ≠ j) :
    Table.get d (Table.set d t k v) j = Table.get d t j := by simp [Table.get_set, h]

theorem Table.get_filterMap_above [DecidableEq α] (d : α) (f : Nat → α) (l : List Nat) (j : Nat) :
    Table.get d (l.filterMap fun k => if f k = d then none else some (k, f k)) j = if j ∈ l then f j else d := by
  induction l with
  | nil => simp
  | cons i l ih =>
    by_cases hd : f i = d
    · simp only [List.filterMap_cons, hd, if_true, ih, List.mem_cons]
      by_cases hj : j = i
      · subst hj
        simp [hd]
      · simp [hj]
    · simp only [List.filterMap_cons, hd, if_false, Table.get_cons, ih, List.mem_cons]
      by_cases hj : i = j
      · simp [hj]
      · have : j ≠ i := fun e => hj e.symm
        simp [hj, this]

/-- A tabulated table gives the function's value below its bound and the default from there on. -/
@[simp] theorem Table.get_tabulate [DecidableEq α] (d : α) (n : Nat) (f : Nat → α) (j : Nat) :
    Table.get d (Table.tabulate d n f) j = if j < n then f j else d := by
  simp [Table.tabulate, Table.get_filterMap_above]

/-- A mapped table gives the mapped value, where the map keeps the default. -/
theorem Table.get_map (d : α) (g : α → α) (hd : g d = d) (t : Table α) (j : Nat) :
    Table.get d (t.map fun p => (p.1, g p.2)) j = g (Table.get d t j) := by
  induction t with
  | nil => simp [hd]
  | cons p t ih =>
    obtain ⟨i, w⟩ := p
    simp only [List.map_cons, Table.get_cons, ih]
    split <;> rfl

theorem Table.mem_insertSorted {k : Nat} {v : α} {t : Table α} {p : Nat × α}
    (h : p ∈ Table.insertSorted k v t) : p = (k, v) ∨ p ∈ t := by
  induction t with
  | nil => simpa [Table.insertSorted] using h
  | cons q t ih =>
    obtain ⟨i, w⟩ := q
    simp only [Table.insertSorted] at h
    split at h
    · simpa using h
    · rcases List.mem_cons.mp h with h | h
      · exact .inr (by simp [h])
      · rcases ih h with h | h
        · exact .inl h
        · exact .inr (List.mem_cons_of_mem _ h)

theorem Table.pairwise_insertSorted {k : Nat} {v : α} {t : Table α}
    (h : t.Pairwise (fun p q => p.1 < q.1)) (hk : ∀ p ∈ t, p.1 ≠ k) :
    (Table.insertSorted k v t).Pairwise (fun p q => p.1 < q.1) := by
  induction t with
  | nil => simp [Table.insertSorted]
  | cons q t ih =>
    obtain ⟨i, w⟩ := q
    obtain ⟨hq, ht⟩ := List.pairwise_cons.mp h
    have hi : i ≠ k := hk (i, w) List.mem_cons_self
    simp only [Table.insertSorted]
    split
    · refine List.pairwise_cons.mpr ⟨?_, h⟩
      intro p hp
      rcases List.mem_cons.mp hp with rfl | hp
      · assumption
      · exact Nat.lt_trans ‹k < i› (hq p hp)
    · refine List.pairwise_cons.mpr ⟨?_, ih ht fun p hp => hk p (List.mem_cons_of_mem _ hp)⟩
      intro p hp
      rcases Table.mem_insertSorted hp with rfl | hp
      · simp only
        omega
      · exact hq p hp

/-- A write keeps the canonical form. -/
theorem Table.wf_set [DecidableEq α] {d : α} {t : Table α} (k : Nat) (v : α) (h : Table.wf d t) :
    Table.wf d (Table.set d t k v) := by
  obtain ⟨hs, hd⟩ := h
  have hf : (t.filter fun p => p.1 != k).Pairwise (fun p q => p.1 < q.1) := hs.filter _
  simp only [Table.set]
  split
  · exact ⟨hf, fun p hp => hd p (List.mem_filter.mp hp).1⟩
  · refine ⟨Table.pairwise_insertSorted hf fun p hp => ?_, fun p hp => ?_⟩
    · simpa using (List.mem_filter.mp hp).2
    · rcases Table.mem_insertSorted hp with rfl | hp
      · assumption
      · exact hd p (List.mem_filter.mp hp).1

/-- A tabulated table is in canonical form. -/
theorem Table.wf_tabulate [DecidableEq α] (d : α) (n : Nat) (f : Nat → α) : Table.wf d (Table.tabulate d n f) := by
  constructor
  · refine List.Pairwise.filterMap _ ?_ (List.pairwise_lt_range (n := n))
    intro a b hab p hp q hq
    split at hp <;> simp at hp
    split at hq <;> simp at hq
    subst hp hq
    exact hab
  · intro p hp
    obtain ⟨k, _, hk⟩ := List.mem_filterMap.mp hp
    split at hk <;> simp at hk
    subst hk
    assumption

/-- A map that makes no default keeps the canonical form. -/
theorem Table.wf_map {d : α} (g : α → α) (hg : ∀ v, g v = d → v = d) {t : Table α} (h : Table.wf d t) :
    Table.wf d (t.map fun p => (p.1, g p.2)) := by
  constructor
  · exact List.pairwise_map.mpr h.1
  · intro p hp
    obtain ⟨q, hq, rfl⟩ := List.mem_map.mp hp
    exact fun e => h.2 q hq (hg _ e)

end Sys2Proof
end

