-- ==== Sys2Proof/Laws/State.lean ====
section
/-! SUPPORT. The small laws of State: what each accessor reads after each shared update, and the laws of `State.Only`. -/

namespace Sys2Proof.Machine

/-! ### Ports -/

@[simp] theorem State.port_setPort_same (s : State) (p : PortId) (x : Port) : (s.setPort p x).port p = x := by
  cases p <;> rfl

theorem State.port_setPort_other (s : State) {p q : PortId} (x : Port) (h : p ≠ q) :
    (s.setPort p x).port q = s.port q := by
  cases p <;> cases q <;> first | rfl | exact absurd rfl h

theorem State.port_setPort (s : State) (p q : PortId) (x : Port) :
    (s.setPort p x).port q = if p = q then x else s.port q := by
  cases p <;> cases q <;> rfl

@[simp] theorem State.setPort_setPort (s : State) (p : PortId) (x y : Port) :
    (s.setPort p x).setPort p y = s.setPort p y := by
  cases p <;> rfl

@[simp] theorem State.setPort_device (s : State) (p : PortId) (x : Port) : (s.setPort p x).device = s.device := by
  cases p <;> rfl

@[simp] theorem State.setPort_straps (s : State) (p : PortId) (x : Port) : (s.setPort p x).straps = s.straps := by
  cases p <;> rfl

@[simp] theorem State.setPort_loanReq (s : State) (p : PortId) (x : Port) : (s.setPort p x).loanReq = s.loanReq := by
  cases p <;> rfl

@[simp] theorem State.setPort_now (s : State) (p : PortId) (x : Port) : (s.setPort p x).now = s.now := by
  cases p <;> rfl

@[simp] theorem State.setPort_memPort (s : State) (p : PortId) (x : Port) : (s.setPort p x).memPort = s.memPort := by
  cases p <;> rfl

@[simp] theorem State.setPort_loan (s : State) (p : PortId) (x : Port) : (s.setPort p x).loan = s.loan := by
  cases p <;> rfl

@[simp] theorem State.setPort_shadow (s : State) (p : PortId) (x : Port) : (s.setPort p x).shadow = s.shadow := by
  cases p <;> rfl

@[simp] theorem State.setPort_fetch (s : State) (p : PortId) (x : Port) : (s.setPort p x).fetch = s.fetch := by
  cases p <;> rfl

@[simp] theorem State.setPort_faults (s : State) (p : PortId) (x : Port) : (s.setPort p x).faults = s.faults := by
  cases p <;> rfl

@[simp] theorem State.setPort_frame (s : State) (p : PortId) (x : Port) : (s.setPort p x).frame = s.frame := by
  cases p <;> rfl

@[simp] theorem State.setPort_gather (s : State) (p : PortId) (x : Port) : (s.setPort p x).gather = s.gather := by
  cases p <;> rfl

@[simp] theorem State.setPort_fanout (s : State) (p : PortId) (x : Port) : (s.setPort p x).fanout = s.fanout := by
  cases p <;> rfl

@[simp] theorem State.setPort_chans (s : State) (p : PortId) (x : Port) : (s.setPort p x).chans = s.chans := by
  cases p <;> rfl

@[simp] theorem State.setPort_params (s : State) (p : PortId) (x : Port) : (s.setPort p x).params = s.params := by
  cases p <;> rfl

@[simp] theorem State.setPort_mgmt (s : State) (p : PortId) (x : Port) : (s.setPort p x).mgmt = s.mgmt := by
  cases p <;> rfl

@[simp] theorem State.setPort_pending (s : State) (p : PortId) (x : Port) : (s.setPort p x).pending = s.pending := by
  cases p <;> rfl

/-! ### Channels -/

theorem State.chan_setChan (s : State) (c j : Nat) (ch : Channel) :
    (s.setChan c ch).chan j = if c = j then ch else s.chan j := Table.get_set ..

@[simp] theorem State.chan_setChan_same (s : State) (c : Nat) (ch : Channel) : (s.setChan c ch).chan c = ch := by
  simp [State.chan_setChan]

theorem State.chan_setChan_other (s : State) {c j : Nat} (ch : Channel) (h : c ≠ j) :
    (s.setChan c ch).chan j = s.chan j := by
  simp [State.chan_setChan, h]

theorem State.chan_mapChans (s : State) (f : Nat → Channel → Channel) (j : Nat) :
    (s.mapChans f).chan j = if j < Config.channels then f j (s.chan j) else Channel.reset := Table.get_tabulate ..

@[simp] theorem State.setChan_device (s : State) (c : Nat) (ch : Channel) : (s.setChan c ch).device = s.device := rfl

@[simp] theorem State.setChan_straps (s : State) (c : Nat) (ch : Channel) : (s.setChan c ch).straps = s.straps := rfl

@[simp] theorem State.setChan_loanReq (s : State) (c : Nat) (ch : Channel) : (s.setChan c ch).loanReq = s.loanReq := rfl

@[simp] theorem State.setChan_now (s : State) (c : Nat) (ch : Channel) : (s.setChan c ch).now = s.now := rfl

@[simp] theorem State.setChan_portA (s : State) (c : Nat) (ch : Channel) : (s.setChan c ch).portA = s.portA := rfl

@[simp] theorem State.setChan_portB (s : State) (c : Nat) (ch : Channel) : (s.setChan c ch).portB = s.portB := rfl

@[simp] theorem State.setChan_memPort (s : State) (c : Nat) (ch : Channel) : (s.setChan c ch).memPort = s.memPort := rfl

@[simp] theorem State.setChan_loan (s : State) (c : Nat) (ch : Channel) : (s.setChan c ch).loan = s.loan := rfl

@[simp] theorem State.setChan_shadow (s : State) (c : Nat) (ch : Channel) : (s.setChan c ch).shadow = s.shadow := rfl

@[simp] theorem State.setChan_fetch (s : State) (c : Nat) (ch : Channel) : (s.setChan c ch).fetch = s.fetch := rfl

@[simp] theorem State.setChan_faults (s : State) (c : Nat) (ch : Channel) : (s.setChan c ch).faults = s.faults := rfl

@[simp] theorem State.setChan_frame (s : State) (c : Nat) (ch : Channel) : (s.setChan c ch).frame = s.frame := rfl

@[simp] theorem State.setChan_gather (s : State) (c : Nat) (ch : Channel) : (s.setChan c ch).gather = s.gather := rfl

@[simp] theorem State.setChan_fanout (s : State) (c : Nat) (ch : Channel) : (s.setChan c ch).fanout = s.fanout := rfl

@[simp] theorem State.setChan_params (s : State) (c : Nat) (ch : Channel) : (s.setChan c ch).params = s.params := rfl

@[simp] theorem State.setChan_mgmt (s : State) (c : Nat) (ch : Channel) : (s.setChan c ch).mgmt = s.mgmt := rfl

@[simp] theorem State.setChan_pending (s : State) (c : Nat) (ch : Channel) : (s.setChan c ch).pending = s.pending := rfl

@[simp] theorem State.mapChans_device (s : State) (g : Nat → Channel → Channel) : (s.mapChans g).device = s.device := rfl

@[simp] theorem State.mapChans_straps (s : State) (g : Nat → Channel → Channel) : (s.mapChans g).straps = s.straps := rfl

@[simp] theorem State.mapChans_loanReq (s : State) (g : Nat → Channel → Channel) : (s.mapChans g).loanReq = s.loanReq := rfl

@[simp] theorem State.mapChans_now (s : State) (g : Nat → Channel → Channel) : (s.mapChans g).now = s.now := rfl

@[simp] theorem State.mapChans_portA (s : State) (g : Nat → Channel → Channel) : (s.mapChans g).portA = s.portA := rfl

@[simp] theorem State.mapChans_portB (s : State) (g : Nat → Channel → Channel) : (s.mapChans g).portB = s.portB := rfl

@[simp] theorem State.mapChans_memPort (s : State) (g : Nat → Channel → Channel) : (s.mapChans g).memPort = s.memPort := rfl

@[simp] theorem State.mapChans_loan (s : State) (g : Nat → Channel → Channel) : (s.mapChans g).loan = s.loan := rfl

@[simp] theorem State.mapChans_shadow (s : State) (g : Nat → Channel → Channel) : (s.mapChans g).shadow = s.shadow := rfl

@[simp] theorem State.mapChans_fetch (s : State) (g : Nat → Channel → Channel) : (s.mapChans g).fetch = s.fetch := rfl

@[simp] theorem State.mapChans_faults (s : State) (g : Nat → Channel → Channel) : (s.mapChans g).faults = s.faults := rfl

@[simp] theorem State.mapChans_frame (s : State) (g : Nat → Channel → Channel) : (s.mapChans g).frame = s.frame := rfl

@[simp] theorem State.mapChans_gather (s : State) (g : Nat → Channel → Channel) : (s.mapChans g).gather = s.gather := rfl

@[simp] theorem State.mapChans_fanout (s : State) (g : Nat → Channel → Channel) : (s.mapChans g).fanout = s.fanout := rfl

@[simp] theorem State.mapChans_params (s : State) (g : Nat → Channel → Channel) : (s.mapChans g).params = s.params := rfl

@[simp] theorem State.mapChans_mgmt (s : State) (g : Nat → Channel → Channel) : (s.mapChans g).mgmt = s.mgmt := rfl

@[simp] theorem State.mapChans_pending (s : State) (g : Nat → Channel → Channel) : (s.mapChans g).pending = s.pending := rfl

theorem Channel.tile_setTile (ch : Channel) (t j : Nat) (x : Tile) :
    (ch.setTile t x).tile j = if t = j then x else ch.tile j := Table.get_set ..

@[simp] theorem Channel.tile_setTile_same (ch : Channel) (t : Nat) (x : Tile) : (ch.setTile t x).tile t = x := by
  simp [Channel.tile_setTile]

theorem Channel.tile_mapTiles (ch : Channel) (f : Tile → Tile) (j : Nat) :
    (ch.mapTiles f).tile j = if j < Config.tilesPerChannel then f (ch.tile j) else Tile.reset := Table.get_tabulate ..

/-! ### Faults -/

/-- A fault record reaches its own class only (R77). -/
theorem State.classState_recordFault (s : State) (k : FaultKind) (o : Origin) (l : Location) (n : Nat) :
    (s.recordFault k o l).classState n =
      if k.cls.number = n then
        (s.classState n).record { kind := k, origin := o, location := l, tag := s.tag }
      else s.classState n := by
  rw [State.recordFault, State.classState, Table.get_set]
  split
  · subst_vars; rfl
  · rfl

@[simp] theorem State.recordFault_device (s : State) (k : FaultKind) (o : Origin) (l : Location) :
    (s.recordFault k o l).device = s.device := rfl

@[simp] theorem State.recordFault_straps (s : State) (k : FaultKind) (o : Origin) (l : Location) :
    (s.recordFault k o l).straps = s.straps := rfl

@[simp] theorem State.recordFault_loanReq (s : State) (k : FaultKind) (o : Origin) (l : Location) :
    (s.recordFault k o l).loanReq = s.loanReq := rfl

@[simp] theorem State.recordFault_now (s : State) (k : FaultKind) (o : Origin) (l : Location) :
    (s.recordFault k o l).now = s.now := rfl

@[simp] theorem State.recordFault_portA (s : State) (k : FaultKind) (o : Origin) (l : Location) :
    (s.recordFault k o l).portA = s.portA := rfl

@[simp] theorem State.recordFault_portB (s : State) (k : FaultKind) (o : Origin) (l : Location) :
    (s.recordFault k o l).portB = s.portB := rfl

@[simp] theorem State.recordFault_memPort (s : State) (k : FaultKind) (o : Origin) (l : Location) :
    (s.recordFault k o l).memPort = s.memPort := rfl

@[simp] theorem State.recordFault_loan (s : State) (k : FaultKind) (o : Origin) (l : Location) :
    (s.recordFault k o l).loan = s.loan := rfl

@[simp] theorem State.recordFault_shadow (s : State) (k : FaultKind) (o : Origin) (l : Location) :
    (s.recordFault k o l).shadow = s.shadow := rfl

@[simp] theorem State.recordFault_fetch (s : State) (k : FaultKind) (o : Origin) (l : Location) :
    (s.recordFault k o l).fetch = s.fetch := rfl

@[simp] theorem State.recordFault_frame (s : State) (k : FaultKind) (o : Origin) (l : Location) :
    (s.recordFault k o l).frame = s.frame := rfl

@[simp] theorem State.recordFault_gather (s : State) (k : FaultKind) (o : Origin) (l : Location) :
    (s.recordFault k o l).gather = s.gather := rfl

@[simp] theorem State.recordFault_fanout (s : State) (k : FaultKind) (o : Origin) (l : Location) :
    (s.recordFault k o l).fanout = s.fanout := rfl

@[simp] theorem State.recordFault_chans (s : State) (k : FaultKind) (o : Origin) (l : Location) :
    (s.recordFault k o l).chans = s.chans := rfl

@[simp] theorem State.recordFault_params (s : State) (k : FaultKind) (o : Origin) (l : Location) :
    (s.recordFault k o l).params = s.params := rfl

@[simp] theorem State.recordFault_mgmt (s : State) (k : FaultKind) (o : Origin) (l : Location) :
    (s.recordFault k o l).mgmt = s.mgmt := rfl

@[simp] theorem State.recordFault_pending (s : State) (k : FaultKind) (o : Origin) (l : Location) :
    (s.recordFault k o l).pending = s.pending := rfl

@[simp] theorem State.recordFault_port (s : State) (k : FaultKind) (o : Origin) (l : Location) (p : PortId) :
    (s.recordFault k o l).port p = s.port p := by
  cases p <;> rfl

@[simp] theorem State.recordFault_chan (s : State) (k : FaultKind) (o : Origin) (l : Location) (c : Nat) :
    (s.recordFault k o l).chan c = s.chan c := rfl

@[simp] theorem State.setPort_chan (s : State) (p : PortId) (x : Port) (c : Nat) : (s.setPort p x).chan c = s.chan c := by
  cases p <;> rfl

@[simp] theorem State.setPort_classState (s : State) (p : PortId) (x : Port) (n : Nat) :
    (s.setPort p x).classState n = s.classState n := by
  cases p <;> rfl

@[simp] theorem State.setChan_port (s : State) (c : Nat) (ch : Channel) (p : PortId) :
    (s.setChan c ch).port p = s.port p := by
  cases p <;> rfl

/-! ### Agreement of states off the touched fields -/

theorem State.Only.refl {fs : List Field} (s : State) : s.Only fs s := by
  constructor
  intro f _
  cases f <;> rfl

theorem State.agree_trans {s t u : State} {f : Field} (h : s.agree t f) (g : t.agree u f) : s.agree u f := by
  cases f <;> exact Eq.trans g h

theorem State.Only.trans {fs : List Field} {s t u : State} (h : s.Only fs t) (g : t.Only fs u) : s.Only fs u :=
  ⟨fun f hf => State.agree_trans (h.off f hf) (g.off f hf)⟩

theorem State.Only.mono {fs gs : List Field} {s t : State} (h : s.Only fs t) (sub : fs ⊆ gs) : s.Only gs t :=
  ⟨fun f hf => h.off f fun m => hf (sub m)⟩

/-- A fold of events that each touch the same fields touches no other. -/
theorem State.Only.foldl {α : Type} {fs : List Field} (g : State → α → State) (hg : ∀ (s : State) (x : α), s.Only fs (g s x)) (l : List α)
    (s : State) : s.Only fs (l.foldl g s) := by
  induction l generalizing s with
  | nil => exact .refl s
  | cons x l ih => exact (hg s x).trans (ih (g s x))

theorem State.Only.device {fs : List Field} {s t : State} (h : s.Only fs t) (hf : Field.device ∉ fs) : t.device = s.device :=
  h.off .device hf

theorem State.Only.straps {fs : List Field} {s t : State} (h : s.Only fs t) (hf : Field.straps ∉ fs) : t.straps = s.straps :=
  h.off .straps hf

theorem State.Only.loanReq {fs : List Field} {s t : State} (h : s.Only fs t) (hf : Field.loanReq ∉ fs) : t.loanReq = s.loanReq :=
  h.off .loanReq hf

theorem State.Only.now {fs : List Field} {s t : State} (h : s.Only fs t) (hf : Field.now ∉ fs) : t.now = s.now :=
  h.off .now hf

theorem State.Only.portA {fs : List Field} {s t : State} (h : s.Only fs t) (hf : Field.portA ∉ fs) : t.portA = s.portA :=
  h.off .portA hf

theorem State.Only.portB {fs : List Field} {s t : State} (h : s.Only fs t) (hf : Field.portB ∉ fs) : t.portB = s.portB :=
  h.off .portB hf

theorem State.Only.memPort {fs : List Field} {s t : State} (h : s.Only fs t) (hf : Field.memPort ∉ fs) : t.memPort = s.memPort :=
  h.off .memPort hf

theorem State.Only.loan {fs : List Field} {s t : State} (h : s.Only fs t) (hf : Field.loan ∉ fs) : t.loan = s.loan :=
  h.off .loan hf

theorem State.Only.shadow {fs : List Field} {s t : State} (h : s.Only fs t) (hf : Field.shadow ∉ fs) : t.shadow = s.shadow :=
  h.off .shadow hf

theorem State.Only.fetch {fs : List Field} {s t : State} (h : s.Only fs t) (hf : Field.fetch ∉ fs) : t.fetch = s.fetch :=
  h.off .fetch hf

theorem State.Only.faults {fs : List Field} {s t : State} (h : s.Only fs t) (hf : Field.faults ∉ fs) : t.faults = s.faults :=
  h.off .faults hf

theorem State.Only.frame {fs : List Field} {s t : State} (h : s.Only fs t) (hf : Field.frame ∉ fs) : t.frame = s.frame :=
  h.off .frame hf

theorem State.Only.gather {fs : List Field} {s t : State} (h : s.Only fs t) (hf : Field.gather ∉ fs) : t.gather = s.gather :=
  h.off .gather hf

theorem State.Only.fanout {fs : List Field} {s t : State} (h : s.Only fs t) (hf : Field.fanout ∉ fs) : t.fanout = s.fanout :=
  h.off .fanout hf

theorem State.Only.chans {fs : List Field} {s t : State} (h : s.Only fs t) (hf : Field.chans ∉ fs) : t.chans = s.chans :=
  h.off .chans hf

theorem State.Only.params {fs : List Field} {s t : State} (h : s.Only fs t) (hf : Field.params ∉ fs) : t.params = s.params :=
  h.off .params hf

theorem State.Only.mgmt {fs : List Field} {s t : State} (h : s.Only fs t) (hf : Field.mgmt ∉ fs) : t.mgmt = s.mgmt :=
  h.off .mgmt hf

theorem State.Only.pending {fs : List Field} {s t : State} (h : s.Only fs t) (hf : Field.pending ∉ fs) : t.pending = s.pending :=
  h.off .pending hf

theorem State.Only.port {fs : List Field} {s t : State} (h : s.Only fs t) (ha : Field.portA ∉ fs) (hb : Field.portB ∉ fs)
    (p : PortId) : t.port p = s.port p := by
  cases p
  · exact h.off .portA ha
  · exact h.off .portB hb

theorem State.Only.chan {fs : List Field} {s t : State} (h : s.Only fs t) (hf : Field.chans ∉ fs) (c : Nat) :
    t.chan c = s.chan c := by
  rw [State.chan, h.chans hf, State.chan]

theorem State.Only.classState {fs : List Field} {s t : State} (h : s.Only fs t) (hf : Field.faults ∉ fs) (n : Nat) :
    t.classState n = s.classState n := by
  rw [State.classState, h.faults hf, State.classState]

end Sys2Proof.Machine
end

