-- ==== Sys2Proof/Laws/Frames.lean ====
section
/-! SUPPORT. The frame of every shared operation: the fields of State it touches at most. -/

namespace Sys2Proof.Machine

/-! ### Base updates -/

theorem State.setPort_only (s : State) (p : PortId) (x : Port) : s.Only [.portA, .portB] (s.setPort p x) := by
  constructor
  intro f hf
  cases f <;> cases p <;> first | rfl | exact absurd (by decide) hf

theorem State.setChan_only (s : State) (c : Nat) (ch : Channel) : s.Only [.chans] (s.setChan c ch) := by
  constructor
  intro f hf
  cases f <;> first | rfl | exact absurd (by decide) hf

theorem State.mapChans_only (s : State) (g : Nat → Channel → Channel) : s.Only [.chans] (s.mapChans g) := by
  constructor
  intro f hf
  cases f <;> first | rfl | exact absurd (by decide) hf

theorem State.recordFault_only (s : State) (k : FaultKind) (o : Origin) (l : Location) :
    s.Only [.faults] (s.recordFault k o l) := by
  constructor
  intro f hf
  cases f <;> first | rfl | exact absurd (by decide) hf

theorem State.setGather_only (s : State) (g : Gather) : s.Only [.gather] { s with gather := g } := by
  constructor
  intro f hf
  cases f <;> first | rfl | exact absurd (by decide) hf

theorem State.setShadow_only (s : State) (x : Shadow) : s.Only [.shadow] { s with shadow := x } := by
  constructor
  intro f hf
  cases f <;> first | rfl | exact absurd (by decide) hf

theorem State.setFetch_only (s : State) (x : Fetch) : s.Only [.fetch] { s with fetch := x } := by
  constructor
  intro f hf
  cases f <;> first | rfl | exact absurd (by decide) hf

theorem State.setMemPort_only (s : State) (x : MemPort) : s.Only [.memPort] { s with memPort := x } := by
  constructor
  intro f hf
  cases f <;> first | rfl | exact absurd (by decide) hf

theorem State.setLoan_only (s : State) (x : Loan) : s.Only [.loan] { s with loan := x } := by
  constructor
  intro f hf
  cases f <;> first | rfl | exact absurd (by decide) hf

theorem State.setMgmt_only (s : State) (x : Mgmt) : s.Only [.mgmt] { s with mgmt := x } := by
  constructor
  intro f hf
  cases f <;> first | rfl | exact absurd (by decide) hf

theorem State.setFrame_only (s : State) (x : FrameRef) : s.Only [.frame] { s with frame := x } := by
  constructor
  intro f hf
  cases f <;> first | rfl | exact absurd (by decide) hf

theorem State.setFanout_only (s : State) (x : Option Fanout) : s.Only [.fanout] { s with fanout := x } := by
  constructor
  intro f hf
  cases f <;> first | rfl | exact absurd (by decide) hf

theorem State.setParams_only (s : State) (x : Params) : s.Only [.params] { s with params := x } := by
  constructor
  intro f hf
  cases f <;> first | rfl | exact absurd (by decide) hf

/-! ### Shared operations (Machine/Ops.lean) -/

theorem State.answerPort_only (s : State) (p : PortId) (a : Answer) : s.Only [.portA, .portB] (s.answerPort p a) :=
  s.setPort_only ..

theorem State.report_only (s : State) (e : Entry) (v : Value) : s.Only [.gather] (s.report e v) := by
  unfold State.report
  split
  · exact .refl s
  · exact s.setGather_only _

theorem State.reportChanges_only (s old : State) (a : WordAddr) : s.Only [.gather] (s.reportChanges old a) := by
  unfold State.reportChanges
  generalize s.straps.entriesAt a = l
  suffices h : ∀ acc : State, acc.Only [.gather]
      (l.foldl (fun acc e => if s.tracked e = old.tracked e then acc else acc.report e (old.tracked e)) acc) from h s
  refine fun acc => .foldl _ (fun acc e => ?_) l acc
  split
  · exact .refl _
  · exact acc.report_only ..

theorem State.actOnWord_only (s : State) (a : WordAddr) (f : Quality Route → Quality Route)
    (g : Quality (BitVec 32) → Quality (BitVec 32)) : s.Only [.shadow, .gather] (s.actOnWord a f g) := by
  unfold State.actOnWord
  split
  · exact ((s.setShadow_only _).mono (by decide)).trans ((State.reportChanges_only ..).mono (by decide))
  · exact .refl s

theorem State.restartSweep_only (s : State) : s.Only [.fetch] s.restartSweep := by
  unfold State.restartSweep
  split
  · exact s.setFetch_only _
  · exact .refl s

theorem State.addReread_only (s : State) (a : WordAddr) : s.Only [.fetch, .faults] (s.addReread a) := by
  unfold State.addReread
  split
  · exact .refl s
  · split
    · exact (s.setFetch_only _).mono (by decide)
    · exact (((s.setFetch_only _).mono (by decide)).trans ((State.recordFault_only ..).mono (by decide))).trans
        ((State.restartSweep_only _).mono (by decide))

theorem State.takeFetchRead_only (s : State) : s.Only [.fetch] s.takeFetchRead := by
  unfold State.takeFetchRead
  split
  · exact s.setFetch_only _
  · exact s.setFetch_only _
  · exact .refl s

theorem State.finishFetch_only (s : State) : s.Only [.fetch, .mgmt] s.finishFetch := by
  unfold State.finishFetch
  split
  · constructor
    intro f hf
    cases f <;> first | rfl | exact absurd (by decide) hf
  · exact .refl s

theorem State.grantLoan_only (s : State) : s.Only [.loan, .shadow, .faults] s.grantLoan := by
  refine State.Only.trans (t := { s with loan := .granted, shadow := s.shadow.downgrade }) ?_
    ((State.recordFault_only ..).mono (by decide))
  constructor
  intro f hf
  cases f <;> first | rfl | exact absurd (by decide) hf

theorem State.grantIfDrained_only (s : State) : s.Only [.loan, .shadow, .faults] s.grantIfDrained := by
  unfold State.grantIfDrained
  split
  · exact s.grantLoan_only
  · exact .refl s

/-! ### Ports (Machine/Ports.lean) -/

theorem State.makePending_only (s : State) (p : PortId) (op : PendingOp) :
    s.Only [.portA, .portB] (s.makePending p op) := s.setPort_only ..

theorem State.refuseRequest_only (s : State) (p : PortId) (k : FaultKind) (a : WordAddr) :
    s.Only [.portA, .portB, .faults] (s.refuseRequest p k a) :=
  ((s.setPort_only ..).mono (by decide)).trans ((State.recordFault_only ..).mono (by decide))

theorem State.recordWriteDecode_only (s : State) (p : PortId) (o : EccOutcome) (a : WordAddr) :
    s.Only [.faults] (s.recordWriteDecode p o a) := by
  unfold State.recordWriteDecode
  split
  · exact .refl s
  · exact s.recordFault_only ..
  · split <;> exact s.recordFault_only ..

theorem State.acceptWrite_only (s : State) (p : PortId) (w : WriteWord) :
    s.Only [.portA, .portB] (s.acceptWrite p w) := by
  unfold State.acceptWrite
  split
  · split <;> exact s.setPort_only ..
  · exact s.setPort_only ..

theorem State.takeRequest_only (s : State) (p : PortId) (r : Request) :
    s.Only [.portA, .portB, .faults] (s.takeRequest p r) := by
  unfold State.takeRequest
  split
  · exact State.refuseRequest_only ..
  · split
    · exact State.refuseRequest_only ..
    · split
      · exact ((State.recordWriteDecode_only ..).mono (by decide)).trans ((State.acceptWrite_only ..).mono (by decide))
      · exact (State.makePending_only ..).mono (by decide)

theorem State.presentRequest_only (s : State) (p : PortId) (r : Request) :
    s.Only [.portA, .portB, .faults] (s.presentRequest p r) := by
  unfold State.presentRequest
  split
  · exact State.takeRequest_only ..
  · exact (State.setPort_only ..).mono (by decide)

theorem State.takePresented_only (s : State) (p : PortId) : s.Only [.portA, .portB, .faults] (s.takePresented p) := by
  unfold State.takePresented
  split
  · exact .refl s
  · exact ((State.setPort_only ..).mono (by decide)).trans (.foldl _ (fun s _ => s.presentRequest_only ..) _ _)

theorem State.freeing_only (s t : State) (p : PortId) : t.Only [.portA, .portB, .faults] (s.freeing t p) := by
  unfold State.freeing
  split
  · exact t.takePresented_only p
  · exact .refl t

/-- A port that held nothing pending, or holds something still, takes nothing at an event. -/
theorem State.freeing_of_kept {s t : State} {p : PortId}
    (h : (s.port p).pending = none ∨ (t.port p).pending ≠ none) : s.freeing t p = t := by
  unfold State.freeing
  split
  · rename_i hs
    unfold State.takePresented
    split
    · rfl
    · rename_i ht
      simp [ht] at h
      simp [h] at hs
  · rfl

/-- An event that frees no port is not followed by a taking (R22). -/
theorem State.settle_of_kept {s t : State}
    (h : ∀ p, (s.port p).pending = none ∨ (t.port p).pending ≠ none) : s.settle t = t := by
  rw [State.settle, State.freeing_of_kept (h .a), State.freeing_of_kept (h .b)]

theorem State.settle_only (s t : State) : t.Only [.portA, .portB, .faults] (s.settle t) :=
  (s.freeing_only t .a).trans (s.freeing_only _ .b)

theorem State.expireWait_only (s : State) (p : PortId) : s.Only [.portA, .portB, .faults] (s.expireWait p) := by
  unfold State.expireWait
  split
  · split
    · exact ((s.answerPort_only ..).mono (by decide)).trans ((State.recordFault_only ..).mono (by decide))
    · exact .refl s
  · exact .refl s

/-! ### Memory port (Machine/MemoryPort.lean) -/

theorem State.noteGrant_only (s : State) (g : Grant) : s.Only [.memPort] (s.noteGrant g) := by
  unfold State.noteGrant
  split <;> exact s.setMemPort_only _

theorem State.appendAccess_only (s : State) (o : Requester) (op : AccessOp) (a : WordAddr) :
    s.Only [.memPort] (s.appendAccess o op a) := s.setMemPort_only _

theorem State.markStale_only (s : State) (a : WordAddr) : s.Only [.memPort] (s.markStale a) := s.setMemPort_only _

theorem State.popInflight_only (s : State) (l : List Access) : s.Only [.memPort] (s.popInflight l) := s.setMemPort_only _

theorem State.snoop_only (s : State) (w : WriteWord) : s.Only [.shadow, .gather, .fetch, .faults] (s.snoop w) := by
  unfold State.snoop
  dsimp only
  split
  · exact ((s.actOnWord_only ..).mono (by decide)).trans ((State.addReread_only ..).mono (by decide))
  · exact (s.actOnWord_only ..).mono (by decide)

theorem State.issueWrite_only (s : State) (p : PortId) (w : WriteWord) (b : Bool) :
    s.Only [.memPort, .shadow, .gather, .fetch, .faults] (s.issueWrite p w b) := by
  unfold State.issueWrite
  exact (((s.markStale_only _).mono (by decide)).trans ((State.appendAccess_only ..).mono (by decide))).trans
    ((State.snoop_only ..).mono (by decide))

theorem State.issueRead_only (s : State) (o : Requester) (a : WordAddr) : s.Only [.memPort] (s.issueRead o a) :=
  s.appendAccess_only ..

theorem State.issueGrant_only (s : State) (g : Grant) :
    s.Only [.portA, .portB, .memPort, .shadow, .gather, .fetch, .faults] (s.issueGrant g) := by
  unfold State.issueGrant
  split
  · exact ((s.takeFetchRead_only).mono (by decide)).trans ((State.issueRead_only ..).mono (by decide))
  · split
    · exact .refl s
    · dsimp only
      split
      · exact ((s.setPort_only ..).mono (by decide)).trans ((State.issueRead_only ..).mono (by decide))
      · exact ((s.setPort_only ..).mono (by decide)).trans ((State.issueWrite_only ..).mono (by decide))
  · split
    · exact .refl s
    · exact ((s.setPort_only ..).mono (by decide)).trans ((State.issueWrite_only ..).mono (by decide))

theorem State.issue_only (s : State) :
    s.Only [.portA, .portB, .memPort, .shadow, .gather, .fetch, .faults] s.issue := by
  unfold State.issue
  split
  · split
    · exact ((s.noteGrant_only _).mono (by decide)).trans (State.issueGrant_only ..)
    · exact .refl s
  · exact .refl s

theorem State.trackRead_only (s : State) (o : Origin) (a : WordAddr) (d : Decoded) :
    s.Only [.shadow, .gather, .faults] (s.trackRead o a d) := by
  unfold State.trackRead
  split
  · exact (s.actOnWord_only ..).mono (by decide)
  · dsimp only
    split
    · exact ((s.actOnWord_only ..).mono (by decide)).trans ((State.recordFault_only ..).mono (by decide))
    · exact (s.actOnWord_only ..).mono (by decide)

theorem State.recordReadDecode_only (s : State) (e : Access) (o : EccOutcome) :
    s.Only [.faults] (s.recordReadDecode e o) := by
  unfold State.recordReadDecode
  split
  · exact .refl s
  · split <;> exact s.recordFault_only ..
  · split <;> exact s.recordFault_only ..

theorem State.deliverRead_only (s : State) (e : Access) (stale : Bool) (d : Decoded) :
    s.Only [.portA, .portB, .fetch, .mgmt, .faults] (s.deliverRead e stale d) := by
  unfold State.deliverRead
  split
  · exact (s.answerPort_only ..).mono (by decide)
  · dsimp only
    split
    · exact ((s.finishFetch_only).mono (by decide)).trans ((State.addReread_only ..).mono (by decide))
    · exact (s.finishFetch_only).mono (by decide)

theorem State.completeRead_only (s : State) (e : Access) (stale : Bool) (x : BitVec 32) (c : BitVec 7) :
    s.Only [.portA, .portB, .fetch, .mgmt, .faults, .shadow, .gather] (s.completeRead e stale x c) := by
  unfold State.completeRead
  dsimp only
  refine State.Only.trans ?_ ((State.deliverRead_only ..).mono (by decide))
  split
  · exact ((s.recordReadDecode_only ..).mono (by decide)).trans ((State.trackRead_only ..).mono (by decide))
  · exact (s.recordReadDecode_only ..).mono (by decide)

theorem State.readCompletes_only (s : State) (x : BitVec 32) (c : BitVec 7) :
    s.Only [.portA, .portB, .memPort, .loan, .fetch, .mgmt, .faults, .shadow, .gather] (s.readCompletes x c) := by
  unfold State.readCompletes
  split
  · exact .refl s
  · split
    · exact (((s.popInflight_only _).mono (by decide)).trans ((State.completeRead_only ..).mono (by decide))).trans
        ((State.grantIfDrained_only _).mono (by decide))
    · exact .refl s

theorem State.writeCompletes_only (s : State) :
    s.Only [.portA, .portB, .memPort, .loan, .faults, .shadow] s.writeCompletes := by
  unfold State.writeCompletes
  split
  · exact .refl s
  · split
    · exact .refl s
    · refine State.Only.trans ?_ ((State.grantIfDrained_only _).mono (by decide))
      have h : ∀ l, s.Only [.portA, .portB, .memPort, .loan, .faults, .shadow] (s.popInflight l) := fun l =>
        (s.popInflight_only l).mono (by decide)
      split
      · split
        · exact h _
        · exact (h _).trans ((State.answerPort_only ..).mono (by decide))
      · exact h _

theorem State.abandon_only (s : State) (e : Access) :
    s.Only [.portA, .portB, .fetch, .mgmt, .faults, .shadow, .gather] (s.abandon e) := by
  unfold State.abandon
  split
  · exact ((s.answerPort_only ..).mono (by decide)).trans ((State.recordFault_only ..).mono (by decide))
  · exact (((s.finishFetch_only).mono (by decide)).trans ((State.recordFault_only ..).mono (by decide))).trans
      ((State.addReread_only ..).mono (by decide))
  · rename_i posted p _ _
    have h : s.Only [.portA, .portB, .fetch, .mgmt, .faults, .shadow, .gather]
        (if posted then s else s.answerPort p .fail) := by
      split
      · exact .refl s
      · exact (s.answerPort_only ..).mono (by decide)
    dsimp only
    split
    · exact h
    · exact ((h.trans ((State.actOnWord_only ..).mono (by decide))).trans
        ((State.recordFault_only ..).mono (by decide))).trans ((State.addReread_only ..).mono (by decide))
  · exact .refl s

theorem State.memoryTimesOut_only (s : State) :
    s.Only [.portA, .portB, .memPort, .loan, .fetch, .mgmt, .faults, .shadow, .gather] s.memoryTimesOut := by
  unfold State.memoryTimesOut
  split
  · exact .refl s
  · split
    · exact (((s.popInflight_only _).mono (by decide)).trans
        (.foldl _ (fun s e => (s.abandon_only e).mono (by decide)) _ _)).trans
        ((State.grantIfDrained_only _).mono (by decide))
    · exact .refl s

/-! ### Loan unit (Machine/LoanUnit.lean) -/

theorem State.loanAsked_only (s : State) : s.Only [.loanReq, .loan, .shadow, .faults] s.loanAsked := by
  have h : s.Only [.loanReq, .loan, .shadow, .faults] { s with loanReq := true } := by
    constructor
    intro f hf
    cases f <;> first | rfl | exact absurd (by decide) hf
  unfold State.loanAsked
  dsimp only
  split
  · exact (h.trans ((State.setLoan_only _ _).mono (by decide))).trans ((State.grantIfDrained_only _).mono (by decide))
  · exact h

theorem State.loanDropped_only (s : State) : s.Only [.loanReq, .loan, .fetch] s.loanDropped := by
  have h : s.Only [.loanReq, .loan, .fetch] { s with loanReq := false } := by
    constructor
    intro f hf
    cases f <;> first | rfl | exact absurd (by decide) hf
  unfold State.loanDropped
  dsimp only
  split
  · split
    · exact (h.trans ((State.setLoan_only _ _).mono (by decide))).trans ((State.restartSweep_only _).mono (by decide))
    · exact h.trans ((State.setLoan_only _ _).mono (by decide))
    · exact h
  · exact h

/-! ### Channels within the part (Machine/ChannelOps.lean, Machine/Links.lean) -/

theorem State.decideSlot_only (s : State) (c : Nat) : s.Only [.chans] (s.decideSlot c) := s.setChan_only ..

theorem State.enqueue_only (s : State) (c t : Nat) (b : Bool) : s.Only [.chans] (s.enqueue c t b) := by
  unfold State.enqueue
  split
  · exact (s.setChan_only ..).trans (State.decideSlot_only ..)
  · exact (s.setChan_only ..).trans (State.decideSlot_only ..)
  all_goals exact .refl s

theorem State.channelFaults_only (s : State) (c : Nat) (ks : List FaultKind) :
    s.Only [.faults] (s.channelFaults c ks) :=
  .foldl _ (fun s _ => s.recordFault_only ..) ks s

theorem State.channelEvent_only (s : State) (c : Nat) (r : Channel × List FaultKind) :
    s.Only [.chans, .faults] (s.channelEvent c r) :=
  ((s.setChan_only ..).mono (by decide)).trans ((State.channelFaults_only ..).mono (by decide))

theorem State.validStatus_only (s : State) (c : Nat) (r : StatusRecord) :
    s.Only [.chans, .faults] (s.validStatus c r) := by
  unfold State.validStatus
  dsimp only
  split
  · exact (s.channelEvent_only ..).trans ((State.decideSlot_only ..).mono (by decide))
  · exact s.channelEvent_only ..

theorem State.receiveByte_only (s : State) (c t : Nat) (b : Byte) : s.Only [.chans, .faults] (s.receiveByte c t b) := by
  unfold State.receiveByte
  dsimp only
  split
  · exact ((s.setChan_only ..).mono (by decide)).trans (State.validStatus_only ..)
  · exact (s.setChan_only ..).mono (by decide)

theorem State.receiveMessage_only (s : State) (c : Nat) (l : List Byte) :
    s.Only [.chans, .faults] (s.receiveMessage c l) :=
  .foldl _ (fun s _ => s.receiveByte_only ..) _ s

theorem State.messageEnds_only (s : State) (c : Nat) : s.Only [.chans] (s.messageEnds c) := by
  unfold State.messageEnds
  dsimp only
  split
  · exact s.setChan_only ..
  · split
    · exact s.setChan_only ..
    · exact (s.setChan_only ..).trans (State.decideSlot_only ..)

theorem State.recordHalt_only (s : State) (k : FaultKind) (l : Location) :
    s.Only [.device, .faults, .chans] (s.recordHalt k l) := by
  unfold State.recordHalt
  dsimp only
  have h := (s.recordFault_only k .selftest l).mono (gs := [.device, .faults, .chans]) (by decide)
  split
  · exact h
  · refine (h.trans ?_).trans ((State.mapChans_only ..).mono (by decide))
    constructor
    intro f hf
    cases f <;> first | rfl | exact absurd (by decide) hf

/-! ### Start-up (Machine/Reset.lean) -/

theorem State.endStartUp_only (s : State) (b : Bool) :
    s.Only [.device, .faults, .chans, .fetch] (s.endStartUp b) := by
  have h : s.Only [.device, .faults, .chans, .fetch] { s with device := .operating } := by
    constructor
    intro f hf
    cases f <;> first | rfl | exact absurd (by decide) hf
  unfold State.endStartUp
  dsimp only
  refine State.Only.trans ?_ ((State.restartSweep_only _).mono (by decide))
  split <;> split
  · exact h.trans ((State.recordHalt_only ..).mono (by decide))
  · exact (h.trans ((State.recordHalt_only ..).mono (by decide))).trans ((State.recordHalt_only ..).mono (by decide))
  · exact h
  · exact h.trans ((State.recordHalt_only ..).mono (by decide))

/-! ### Fan-out (Machine/Fanout.lean) -/

theorem State.setEngine_only (s : State) (x : List TakeRecord × Option Fanout) :
    s.Only [.gather, .fanout] (s.setEngine x) := by
  constructor
  intro f hf
  cases f <;> first | rfl | exact absurd (by decide) hf

theorem State.advance_only (s : State) (x : Fanout) : s.Only [.gather, .fanout] (s.advance x) := by
  unfold State.advance
  split
  · exact s.setEngine_only _
  · split
    · split
      · exact (s.setFanout_only _).mono (by decide)
      · split
        · exact (s.setFanout_only _).mono (by decide)
        · exact s.setEngine_only _
    · exact s.setEngine_only _

theorem State.visitCrosspoint_only (s : State) (n : BitVec 32) (v : Value) (k : Nat) :
    s.Only [.chans] (s.visitCrosspoint n v k) := by
  unfold State.visitCrosspoint
  dsimp only
  split
  · exact (s.setChan_only ..).trans (State.enqueue_only ..)
  · exact .refl s

theorem State.visitName_only (s : State) (k : Nat) : s.Only [.chans] (s.visitName k) := s.enqueue_only ..

theorem State.crosspointVisit_only (s : State) : s.Only [.chans, .gather, .fanout] s.crosspointVisit := by
  unfold State.crosspointVisit
  split
  · split
    · exact ((s.visitCrosspoint_only ..).mono (by decide)).trans ((State.advance_only ..).mono (by decide))
    · exact (s.advance_only _).mono (by decide)
  · exact .refl s

theorem State.nameVisit_only (s : State) : s.Only [.chans, .gather, .fanout] s.nameVisit := by
  unfold State.nameVisit
  split
  · split
    · exact ((s.visitName_only ..).mono (by decide)).trans ((State.advance_only ..).mono (by decide))
    · exact (s.advance_only _).mono (by decide)
  · exact .refl s

/-! ### The switch point and the frame reference (Machine/FrameUnit.lean) -/

theorem State.closeGather_only (s : State) : s.Only [.gather, .fanout] s.closeGather := by
  unfold State.closeGather
  dsimp only
  split
  · exact (s.setGather_only _).mono (by decide)
  · split
    · exact (s.setGather_only _).mono (by decide)
    · exact ((s.setGather_only _).mono (by decide)).trans (State.setEngine_only ..)

theorem State.lateTake_only (s : State) : s.Only [.gather, .faults] s.lateTake :=
  ((s.setGather_only _).mono (by decide)).trans ((State.recordFault_only ..).mono (by decide))

theorem State.gatherSwitchPoint_only (s : State) : s.Only [.gather, .fanout, .faults] s.gatherSwitchPoint := by
  unfold State.gatherSwitchPoint
  split
  · exact s.closeGather_only.mono (by decide)
  · exact s.lateTake_only.mono (by decide)

theorem State.channelSwitchPoint_only (s : State) (c : Nat) : s.Only [.chans, .faults] (s.channelSwitchPoint c) :=
  s.channelEvent_only ..

theorem State.switchPoint_only (s : State) : s.Only [.frame, .gather, .fanout, .faults, .chans] s.switchPoint := by
  unfold State.switchPoint
  exact (((s.setFrame_only _).mono (by decide)).trans ((State.gatherSwitchPoint_only _).mono (by decide))).trans
    (.foldl _ (fun s c => (s.channelSwitchPoint_only c).mono (by decide)) _ _)

theorem State.raiseReference_only (s : State) : s.Only [.mgmt] s.raiseReference := s.setMgmt_only _

theorem State.setSwitchTime_only (s : State) (n : Nat) (l : Option Nat) (r : RefState) :
    s.Only [.frame] (s.setSwitchTime n l r) := s.setFrame_only _

theorem State.clearCandidates_only (s : State) : s.Only [.frame] s.clearCandidates := s.setFrame_only _

theorem State.acceptPulse_only (s : State) (t : Nat) :
    s.Only [.frame, .gather, .fanout, .faults, .chans, .mgmt] (s.acceptPulse t) := by
  have h := ((s.switchPoint_only.mono (gs := [.frame, .gather, .fanout, .faults, .chans, .mgmt]) (by decide)).trans
    ((State.setSwitchTime_only s.switchPoint t (some t) .locked).mono (by decide))).trans
    ((State.clearCandidates_only _).mono (by decide))
  unfold State.acceptPulse
  dsimp only
  split
  · exact h.trans ((State.raiseReference_only _).mono (by decide))
  · exact h

theorem State.reacquire_only (s : State) (t : Nat) :
    s.Only [.frame, .gather, .fanout, .faults, .chans, .mgmt] (s.reacquire t) := by
  unfold State.reacquire
  dsimp only
  refine (State.Only.trans (State.Only.trans ?_ ((State.setSwitchTime_only ..).mono (by decide)))
    ((State.clearCandidates_only _).mono (by decide))).trans ((State.raiseReference_only _).mono (by decide))
  split
  · exact .refl s
  · exact s.switchPoint_only.mono (by decide)

theorem State.rejectPulse_only (s : State) (t : Nat) :
    s.Only [.frame, .gather, .fanout, .faults, .chans, .mgmt] (s.rejectPulse t) := by
  unfold State.rejectPulse
  dsimp only
  split
  · exact ((s.setFrame_only _).mono (by decide)).trans (State.reacquire_only ..)
  · exact (s.setFrame_only _).mono (by decide)

theorem State.pulse_only (s : State) : s.Only [.frame, .gather, .fanout, .faults, .chans, .mgmt] s.pulse := by
  unfold State.pulse
  split
  · exact s.acceptPulse_only _
  · exact s.rejectPulse_only _

theorem State.freeRun_only (s : State) : s.Only [.frame, .gather, .fanout, .faults, .chans] s.freeRun :=
  s.switchPoint_only.trans ((State.setSwitchTime_only ..).mono (by decide))

theorem State.flywheel_only (s : State) : s.Only [.frame, .gather, .fanout, .faults, .chans, .mgmt] s.flywheel := by
  have h := (s.switchPoint_only.mono (gs := [.frame, .gather, .fanout, .faults, .chans, .mgmt]) (by decide)).trans
    ((State.setSwitchTime_only s.switchPoint s.frame.expected
      (some (s.frame.expected + s.frame.halfWidth)) .flywheel).mono (by decide))
  unfold State.flywheel
  dsimp only
  split
  · exact h.trans ((State.raiseReference_only _).mono (by decide))
  · exact h

/-! ### Management (Machine/Management.lean) -/

theorem State.clearMasked_only (s : State) (m : Byte) : s.Only [.faults, .mgmt] (s.clearMasked m) := by
  constructor
  intro f hf
  cases f <;> first | rfl | exact absurd (by decide) hf

theorem State.storeParam_only (s : State) (p : Param) (c v : Nat) (b : Bool) :
    s.Only [.params, .chans] (s.storeParam p c v b) := by
  cases p <;> first | exact (s.setParams_only _).mono (by decide) | exact (s.setChan_only ..).mono (by decide)

theorem State.runSetParam_only (s : State) (n c : Byte) (v : BitVec 16) (b : Bool) :
    s.Only [.params, .chans] (s.runSetParam n c v b).1 := by
  unfold State.runSetParam State.refuse
  split
  · exact .refl s
  · split
    · exact .refl s
    · dsimp only
      split
      · exact .refl s
      · exact s.storeParam_only ..

theorem State.runGetParam_only (s : State) (n c : Byte) : (s.runGetParam n c).1 = s := by
  unfold State.runGetParam State.refuse
  split
  · rfl
  · split <;> rfl

theorem State.assignTile_only (s : State) (c t : Nat) (e : Crosspoint) : s.Only [.chans] (s.assignTile c t e) :=
  (s.setChan_only ..).trans (State.enqueue_only ..)

theorem State.runAssign_only (s : State) (c t l : Byte) (d : BitVec 16) : s.Only [.chans] (s.runAssign c t l d).1 := by
  unfold State.runAssign State.refuse
  split
  · exact .refl s
  · split
    · exact .refl s
    · exact s.assignTile_only ..

theorem State.unassignTile_only (s : State) (c t : Nat) : s.Only [.chans] (s.unassignTile c t) :=
  (s.setChan_only ..).trans (State.enqueue_only ..)

theorem State.runUnassign_only (s : State) (c t : Byte) : s.Only [.chans] (s.runUnassign c t).1 := by
  unfold State.runUnassign State.refuse
  split
  · exact .refl s
  · split
    · exact .refl s
    · exact s.unassignTile_only ..

theorem State.runStart_only (s : State) (m : BitVec 16) : s.Only [.chans] (s.runStart m).1 := by
  unfold State.runStart State.refuse
  split
  · exact .refl s
  · exact s.mapChans_only _

theorem State.stopMasked_only (s : State) (m : BitVec 16) : s.Only [.chans] (s.stopMasked m) := s.mapChans_only _

theorem State.runResync_only (s : State) : s.Only [.shadow, .fetch] s.runResync.1 := by
  unfold State.runResync State.refuse
  split
  · exact .refl s
  · exact ((s.setShadow_only _).mono (by decide)).trans ((State.restartSweep_only _).mono (by decide))

theorem State.softReset_only (s : State) :
    s.Only [.shadow, .memPort, .fetch, .gather, .fanout, .faults, .mgmt, .chans] s.softReset := by
  unfold State.softReset
  dsimp only
  refine State.Only.trans (State.Only.trans ?_ ((State.mapChans_only ..).mono (by decide)))
    ((State.restartSweep_only _).mono (by decide))
  constructor
  intro f hf
  cases f <;> first | rfl | exact absurd (by decide) hf

/-- A command whose bytes complete what is held executes, and its reply stands to be shifted out (R169). -/
theorem State.runCommand_awaits {s : State} {l : List Byte} (h : s.Awaits l) (run : State → State × List Byte) :
    s.runCommand l run = State.replied (run s).1 l (run s).2 := by
  obtain ⟨_, held, hs, hp, hl⟩ := h
  simp [State.runCommand, hs, List.isPrefixOf_iff_prefix.mpr hp, hl, State.replied]

/-- The bytes of a command touch what its effect touches, and the management port. -/
theorem State.runCommand_only (s : State) (l : List Byte) (run : State → State × List Byte) {fs : List Field}
    (h : s.Only fs (run s).1) : s.Only (.mgmt :: fs) (s.runCommand l run) := by
  unfold State.runCommand
  split
  · exact .refl s
  · split
    · exact (h.mono (List.subset_cons_self _ _)).trans
        ((State.setMgmt_only _ _).mono (List.cons_subset_cons _ (List.nil_subset _)))
    · exact .refl s
  · exact (State.setMgmt_only _ _).mono (List.cons_subset_cons _ (List.nil_subset _))

theorem State.unknownByte_only (s : State) (b : Byte) : s.Only [.mgmt] (s.unknownByte b) := by
  unfold State.unknownByte
  split
  · exact .refl s
  · split
    · exact s.setMgmt_only _
    · split
      · exact s.runCommand_only _ _ (.refl s)
      · exact .refl s
  · exact s.runCommand_only _ _ (.refl s)

end Sys2Proof.Machine
end

