-- ==== Sys2Proof/Laws/Channels.lean ====
section
/-! SUPPORT. What the operations of a channel unit can do, each said once: the slot decision, the events of the channel, and
the principle that a condition every channel action keeps is kept by every command at every channel. -/

namespace Sys2Proof.Machine

/-! ### The slot decision (R131, R142) -/

/-- A condition that a dropped head, a completed refresh, a refresh NOTICE and a change NOTICE keep is kept by the rounds of a
slot decision. -/
theorem Channel.decideRounds_keeps {P : Channel → Prop} (label : TileState → List Byte) (now : Nat)
    (drop : ∀ ch n rest, ch.queue = n :: rest → P ch →
      P { ch with queue := rest, droppedEqual := bump ch.droppedEqual })
    (complete : ∀ ch, P ch → P ch.completeRefresh)
    (refresh : ∀ ch k t, ch.refreshTarget k = some t → P ch → P (ch.sendRefresh label now t))
    (change : ∀ ch n rest, ch.queue = n :: rest → P ch → P (ch.sendChange label now n.tile rest))
    (fuel : Nat) (ch : Channel) (h : P ch) : P (Channel.decideRounds label now fuel ch) := by
  induction fuel generalizing ch with
  | zero => exact h
  | succ fuel ih =>
    simp only [Channel.decideRounds]
    split
    · exact h
    · split
      · exact refresh _ _ _ ‹_› h
      · exact ih _ (complete _ h)
    · split
      · exact h
      · split
        · exact ih _ (drop _ _ _ ‹_› h)
        · exact change _ _ _ ‹_› h

/-- The same for the slot decision as it is taken. -/
theorem Channel.slotDecision_keeps {P : Channel → Prop} (label : TileState → List Byte) (now : Nat)
    (drop : ∀ ch n rest, ch.queue = n :: rest → P ch →
      P { ch with queue := rest, droppedEqual := bump ch.droppedEqual })
    (complete : ∀ ch, P ch → P ch.completeRefresh)
    (refresh : ∀ ch k t, ch.refreshTarget k = some t → P ch → P (ch.sendRefresh label now t))
    (change : ∀ ch n rest, ch.queue = n :: rest → P ch → P (ch.sendChange label now n.tile rest))
    (ch : Channel) (h : P ch) : P (ch.slotDecision label now) := by
  unfold Channel.slotDecision
  split
  · exact Channel.decideRounds_keeps label now drop complete refresh change _ _ h
  · exact h

/-- A slot decision leaves the channel's state, its link items, its parameters and its receiver as they are. -/
theorem Channel.slotDecision_link (label : TileState → List Byte) (now : Nat) (ch : Channel) :
    (ch.slotDecision label now).state = ch.state ∧ (ch.slotDecision label now).hold = ch.hold ∧
      (ch.slotDecision label now).framePending = ch.framePending ∧
      (ch.slotDecision label now).tc = ch.tc ∧ (ch.slotDecision label now).budget = ch.budget ∧
      (ch.slotDecision label now).rx = ch.rx ∧ (ch.slotDecision label now).ticks = ch.ticks := by
  refine Channel.slotDecision_keeps (P := fun x => x.state = ch.state ∧ x.hold = ch.hold ∧
    x.framePending = ch.framePending ∧ x.tc = ch.tc ∧ x.budget = ch.budget ∧ x.rx = ch.rx ∧ x.ticks = ch.ticks)
    label now ?_ ?_ ?_ ?_ ch ⟨rfl, rfl, rfl, rfl, rfl, rfl, rfl⟩
  · exact fun _ _ _ _ h => h
  · exact fun _ h => h
  · exact fun _ _ _ _ h => h
  · exact fun _ _ _ _ h => h

/-- A refresh goes to an assigned tile below Tc, from the cursor on, that is not queued (R144). -/
theorem Channel.refreshTarget_spec {ch : Channel} {k t : Nat} (h : ch.refreshTarget k = some t) :
    t < ch.tc ∧ k ≤ t ∧ (ch.tile t).assignment.isSome = true ∧ ch.queued t = false := by
  have hm := List.mem_of_find?_eq_some h
  have hp := List.find?_some h
  simp only [Bool.and_eq_true, decide_eq_true_eq, Bool.not_eq_true'] at hp
  exact ⟨List.mem_range.mp hm, hp.1.1, hp.1.2, hp.2⟩

/-- What the comparison of a STATUS with the snapshots changes: the stale and mismatch counts and the forced refresh (R148,
R149). -/
theorem Channel.compare_spec (ch : Channel) (r : StatusRecord) :
    ∃ stale m f c, (ch.compare r).1 = { ch with staleCount := stale, mismatch := m, forced := f, cursor := c } ∧
      (m = ch.mismatch ∨ m ≤ 1) := by
  unfold Channel.compare
  split
  · exact ⟨_, _, _, _, rfl, .inl rfl⟩
  · split
    · split
      · exact ⟨ch.staleCount, 0, ch.forced, ch.cursor, rfl, .inr (by decide)⟩
      · split
        · exact ⟨ch.staleCount, 1, ch.forced, ch.cursor, rfl, .inr (by decide)⟩
        · exact ⟨ch.staleCount, 0, true, _, rfl, .inr (by decide)⟩
    · exact ⟨ch.staleCount, ch.mismatch, ch.forced, ch.cursor, rfl, .inl rfl⟩

/-- A channel holds its last four snapshots at most (R147). -/
theorem pushSnapshot_length (l : List Snapshot) (x : Snapshot) (h : l.length ≤ Config.snapshotMax) :
    (pushSnapshot l x).length ≤ Config.snapshotMax := by
  unfold pushSnapshot
  split <;> simp [Config.snapshotMax] at * <;> omega

/-- What storing the options changes: the options, the polarity in force, the receiver with its wire, and the state of a
resting channel, which goes on resting (R153, R154, R158). -/
theorem Channel.setOptions_spec (ch : Channel) (v : BitVec 5) (b : Option Bool) :
    ∃ st ti rx er wire, ch.setOptions v b =
        { ch with state := st, options := v, txInverted := ti, rx := rx, returnErrors := er, rxWire := wire } ∧
      (st = ch.state ∨ ch.Resting ∧ (st = .stopped ∨ st = .listening)) := by
  have rest : ∀ x : Channel, x.restState = .stopped ∨ x.restState = .listening := by
    intro x
    unfold Channel.restState
    split <;> simp
  unfold Channel.setOptions
  dsimp only
  have key : ∀ st : ChannelState, (st = match ch.state with
      | .stopped => Channel.restState { ch with options := v }
      | .listening => Channel.restState { ch with options := v }
      | .starting => .starting
      | .running => .running
      | .lost => .lost) → st = ch.state ∨ ch.Resting ∧ (st = .stopped ∨ st = .listening) := by
    rintro st rfl
    cases hs : ch.state <;> simp [Channel.Resting, hs, rest]
  split
  · exact ⟨_, _, _, _, _, rfl, key _ rfl⟩
  · split <;> exact ⟨_, _, _, _, _, rfl, key _ rfl⟩

/-- The stop effects make every last-sent state unassigned and keep the rest of a tile record (R137). -/
theorem Channel.stopEffects_tile (ch : Channel) (t : Nat) :
    ch.stopEffects.tile t =
      if t < Config.tilesPerChannel then { ch.tile t with lastSent := .unassigned } else Tile.reset :=
  ch.tile_mapTiles (fun x => { x with lastSent := .unassigned }) t

/-! ### The digest (R146) -/

theorem sum_range_update (f g : Nat → Nat) (t : Nat) (h : ∀ j, j ≠ t → g j = f j) (n : Nat) :
    ((List.range n).map g).sum + (if t < n then f t else 0) = ((List.range n).map f).sum + (if t < n then g t else 0) := by
  induction n with
  | zero => simp
  | succ n ih =>
    simp only [List.range_succ, List.map_append, List.sum_append, List.map_cons, List.map_nil, List.sum_cons,
      List.sum_nil, Nat.add_zero]
    by_cases hn : n = t
    · subst hn
      simp only [Nat.lt_irrefl, if_false, Nat.add_zero, Nat.lt_succ_self, if_true] at ih ⊢
      omega
    · have hl : (t < n + 1) ↔ t < n := by omega
      simp only [hl, h n hn]
      omega

/-- The digest's arithmetic: moving the word of tile t from w to w' moves the sum accordingly (R146). -/
theorem digestMove_eq (d rest t w w' : Nat) (hd : d = (rest + (t + 1) * w) % Config.digestModulus) :
    digestMove d t w w' = (rest + (t + 1) * w') % Config.digestModulus := by
  unfold digestMove Config.digestModulus at *
  omega

/-- The digest after a tile's last-sent state has moved is the sum over the last-sent words as they then stand (R146). -/
theorem Channel.digestSum_setTile (ch : Channel) (t : Nat) (x : Tile) (ht : t < Config.tilesPerChannel)
    (h : ch.digest = ch.digestSum) :
    digestMove ch.digest t (ch.tile t).lastSent.word x.lastSent.word = (ch.setTile t x).digestSum := by
  have hu := sum_range_update (fun j => (j + 1) * (ch.tile j).lastSent.word)
    (fun j => (j + 1) * ((ch.setTile t x).tile j).lastSent.word) t
    (fun j hj => by simp [Channel.tile_setTile, Ne.symm hj]) Config.tilesPerChannel
  simp only [ht, if_true, Channel.tile_setTile_same] at hu
  have hle := sum_range_update (fun j => (j + 1) * (ch.tile j).lastSent.word)
    (fun j => if j = t then 0 else (j + 1) * (ch.tile j).lastSent.word) t (fun j hj => by simp [hj]) Config.tilesPerChannel
  simp only [ht, if_true, Nat.add_zero] at hle
  generalize hg : ((List.range Config.tilesPerChannel).map
    fun j => if j = t then 0 else (j + 1) * (ch.tile j).lastSent.word).sum = rest at hle
  have hs : ((List.range Config.tilesPerChannel).map fun j => (j + 1) * ((ch.setTile t x).tile j).lastSent.word).sum =
      rest + (t + 1) * x.lastSent.word := by
    rw [← hle] at hu
    omega
  rw [Channel.digestSum, hs]
  exact digestMove_eq _ _ _ _ _ (by rw [h, Channel.digestSum, ← hle])

/-- With every last-sent state unassigned the digest's sum is 0 (R146). -/
theorem Channel.digestSum_unassigned (ch : Channel) (h : ∀ t, (ch.tile t).lastSent = .unassigned) : ch.digestSum = 0 := by
  have : ∀ l : List Nat, (l.map fun t => (t + 1) * (ch.tile t).lastSent.word).sum = 0 := by
    intro l
    induction l with
    | nil => rfl
    | cons t l ih => rw [List.map_cons, List.sum_cons, ih, h]; rfl
  rw [Channel.digestSum, this]
  rfl

/-- The sum reads the last-sent states only. -/
theorem Channel.digestSum_congr (a b : Channel) (h : ∀ t, (a.tile t).lastSent = (b.tile t).lastSent) :
    a.digestSum = b.digestSum := by
  simp only [Channel.digestSum, h]

/-! ### What every command does to a channel -/

/-- A channel in RUNNING or LOST, which marks frames. -/
def Channel.OnAir (ch : Channel) : Prop := ch.state = .running ∨ ch.state = .lost

/-- The accounting and the tick leave a RUNNING channel in RUNNING or LOST (R164, R140). -/
theorem Channel.account_onAir {ch : Channel} (h : ch.state = .running) : ch.account.1.OnAir := by
  unfold Channel.account Channel.OnAir
  split
  · exact .inr rfl
  · exact .inl h

theorem Channel.countTick_onAir {ch : Channel} (h : ch.OnAir) : ch.countTick.1.OnAir := by
  unfold Channel.countTick Channel.OnAir
  split
  · split <;> exact h
  · exact h

/-- A condition on channels, given whether the device is HALTED, that every action on a channel keeps; a tile that joins the
queue satisfies `B`. -/
structure Channel.Kept (B : Nat → Prop) (P : Bool → Channel → Prop) : Prop where
  /-- What a visit and an assignment can append. -/
  slot : ∀ t, t < Config.tilesPerChannel → B t
  assigned : ∀ h ch t, P h ch → t < ch.tc → B t
  /-- As RSTN leaves it. -/
  reset : P false Channel.reset
  /-- The stop effects, which also go with entry to HALTED. -/
  stop : ∀ h h' ch, P h ch → P h' ch.stopEffects
  /-- A slot decision. -/
  decide : ∀ h ch label now, P h ch → P h (ch.slotDecision label now)
  /-- An append. -/
  append : ∀ h ch t b, B t → ch.OnAir → P h ch → P h (ch.append t b)
  /-- A tile record replaced with its last-sent state kept. -/
  tile : ∀ h ch t x, x.lastSent = (ch.tile t).lastSent → P h ch → P h (ch.setTile t x)
  /-- The parts of a switch point. -/
  account : ∀ h ch, ch.state = .running → P h ch → P h ch.account.1
  tick : ∀ h ch, ch.OnAir → P h ch → P h ch.countTick.1
  pendFrame : ∀ h ch tag, ch.OnAir → P h ch → P h { ch with framePending := some tag }
  helloCount : ∀ h ch, ch.state = .starting → ch.helloCount < Config.helloMax → P h ch →
    P h { ch with helloCount := ch.helloCount + 1 }
  pendHello : ∀ h ch, P h ch → P h { ch with helloPending := true }
  /-- The begin of a FRAME mark, due now or pending, and of a HELLO. -/
  frame : ∀ h ch now tag, ch.OnAir ∨ ch.framePending = some tag → P h ch → P h (ch.beginFrame now tag)
  hello : ∀ h ch c now, P h ch → P h (ch.beginHello c now)
  /-- The end of a message. -/
  free : ∀ h ch, P h ch → P h { ch with tx := none }
  /-- The return line. -/
  receiver : ∀ h ch rx errors wire, P h ch → P h { ch with rx := rx, returnErrors := errors, rxWire := wire }
  status : ∀ h ch now r, P h ch → P h (ch.onStatus h now r).1
  /-- The management commands. -/
  start : ∀ ch now, P false ch → P false (ch.start now)
  tc : ∀ h ch v, v ≤ Config.tilesPerChannel → P h ch → P h { ch with tc := v }
  budget : ∀ h ch v, v ≤ 64 → P h ch → P h { ch with budget := v }
  interval : ∀ h ch v, P h ch → P h { ch with interval := v }
  options : ∀ h ch v b, P h ch → P h (ch.setOptions v b)
  soft : ∀ h ch f, P h ch → P h (ch.mapTiles fun x => x.softReset f).stopEffects

/-- The device is HALTED. -/
def State.isHalted (s : State) : Bool := s.device == .halted

/-- A condition holds of every channel. -/
def State.Each (P : Bool → Channel → Prop) (s : State) : Prop := ∀ c, c < Config.channels → P s.isHalted (s.chan c)

variable {B : Nat → Prop} {P : Bool → Channel → Prop}

theorem State.Only.each {fs : List Field} {s t : State} (h : s.Only fs t) (hd : Field.device ∉ fs)
    (hc : Field.chans ∉ fs) (e : s.Each P) : t.Each P := by
  intro c hlt
  rw [State.isHalted, h.device hd, h.chan hc]
  exact e c hlt

theorem State.each_setChan {s : State} {c : Nat} {ch : Channel} (h : P s.isHalted (s.chan c) → P s.isHalted ch)
    (e : s.Each P) : (s.setChan c ch).Each P := by
  intro j hj
  rw [State.chan_setChan]
  split
  · subst_vars
    exact h (e _ hj)
  · exact e j hj

theorem State.each_mapChans {s : State} {f : Nat → Channel → Channel}
    (h : ∀ c ch, P s.isHalted ch → P s.isHalted (f c ch)) (e : s.Each P) : (s.mapChans f).Each P := by
  intro j hj
  rw [State.chan_mapChans, if_pos hj]
  exact h _ _ (e j hj)

theorem State.each_of_chans {s t : State} (hd : t.device = s.device) (hc : ∀ c, t.chan c = s.chan c) (e : s.Each P) :
    t.Each P := by
  intro c hlt
  rw [State.isHalted, hd, hc]
  exact e c hlt

theorem State.each_decideSlot (k : Channel.Kept B P) {s : State} (c : Nat) (e : s.Each P) : (s.decideSlot c).Each P :=
  State.each_setChan (k.decide _ _ _ _) e

theorem State.each_enqueue (k : Channel.Kept B P) {s : State} (c t : Nat) (b : Bool) (ht : B t) (e : s.Each P) :
    (s.enqueue c t b).Each P := by
  unfold State.enqueue
  split
  · exact State.each_decideSlot k _ (State.each_setChan (k.append _ _ _ _ ht (.inl ‹_›)) e)
  · exact State.each_decideSlot k _ (State.each_setChan (k.append _ _ _ _ ht (.inr ‹_›)) e)
  all_goals exact e

theorem State.each_channelEvent {s : State} {c : Nat} {r : Channel × List FaultKind}
    (h : P s.isHalted (s.chan c) → P s.isHalted r.1) (e : s.Each P) : (s.channelEvent c r).Each P :=
  (State.channelFaults_only _ _ _).each (by decide) (by decide) (State.each_setChan h e)

theorem State.each_validStatus (k : Channel.Kept B P) {s : State} (c : Nat) (r : StatusRecord) (e : s.Each P) :
    (s.validStatus c r).Each P := by
  have h : (s.channelEvent c (((s.chan c).onStatus (s.device == .halted) s.now r).1,
      ((s.chan c).onStatus (s.device == .halted) s.now r).2.1)).Each P :=
    State.each_channelEvent (k.status s.isHalted _ s.now r) e
  unfold State.validStatus
  dsimp only
  split
  · exact State.each_decideSlot k _ h
  · exact h

theorem Channel.takeByte_receiver (ch : Channel) (now : Nat) (b : Byte) :
    ∃ rx errors, (ch.takeByte now b).1 = { ch with rx := rx, returnErrors := errors, rxWire := ch.rxWire } := by
  have hg : ∀ n, ∃ rx errors, ch.expireGap n = { ch with rx := rx, returnErrors := errors, rxWire := ch.rxWire } := by
    intro n
    unfold Channel.expireGap
    split
    · exact ⟨ch.rx, ch.returnErrors, rfl⟩
    · split
      · exact ⟨_, _, rfl⟩
      · exact ⟨ch.rx, ch.returnErrors, rfl⟩
  obtain ⟨rx, er, hr⟩ := hg (now - Config.byteTime)
  unfold Channel.takeByte
  split
  · exact ⟨ch.rx, ch.returnErrors, rfl⟩
  · simp only [hr]
    split
    · split <;> exact ⟨_, _, rfl⟩
    · split
      · exact ⟨_, _, rfl⟩
      · split <;> exact ⟨_, _, rfl⟩

theorem Channel.framingError_receiver (ch : Channel) (now : Nat) :
    ∃ rx errors wire, ch.framingError now = { ch with rx := rx, returnErrors := errors, rxWire := wire } := by
  unfold Channel.framingError
  split
  · exact ⟨ch.rx, ch.returnErrors, ch.rxWire, rfl⟩
  · unfold Channel.expireGap
    dsimp only
    split
    · exact ⟨_, _, _, rfl⟩
    · split <;> exact ⟨_, _, _, rfl⟩

theorem State.each_receiveByte (k : Channel.Kept B P) {s : State} (c n : Nat) (b : Byte) (e : s.Each P) :
    (s.receiveByte c n b).Each P := by
  have h : (s.setChan c ((s.chan c).takeByte n b).1).Each P := by
    obtain ⟨rx, er, hr⟩ := Channel.takeByte_receiver (s.chan c) n b
    rw [hr]
    exact State.each_setChan (k.receiver _ _ _ _ _) e
  unfold State.receiveByte
  dsimp only
  split
  · exact State.each_validStatus k _ _ h
  · exact h

theorem State.each_receiveMessage (k : Channel.Kept B P) {s : State} (c : Nat) (l : List Byte) (e : s.Each P) :
    (s.receiveMessage c l).Each P := by
  unfold State.receiveMessage
  generalize l.zipIdx = m
  suffices h : ∀ acc : State, acc.Each P → (m.foldl (fun acc p => acc.receiveByte c
      (s.now + Config.byteTime * (p.2 + 1) - Config.byteTime * l.length) p.1) acc).Each P from h s e
  induction m with
  | nil => exact fun _ h => h
  | cons x m ih => exact fun acc h => ih _ (State.each_receiveByte k _ _ _ h)

theorem State.each_messageEnds (k : Channel.Kept B P) {s : State} (c : Nat) (e : s.Each P) : (s.messageEnds c).Each P := by
  unfold State.messageEnds
  dsimp only
  split
  · exact State.each_setChan (fun h => k.frame _ _ _ _ (.inr ‹_›) (k.free _ _ h)) e
  · split
    · exact State.each_setChan (fun h => k.hello _ _ _ _ (k.free _ _ h)) e
    · exact State.each_decideSlot k _ (State.each_setChan (k.free _ _) e)

theorem State.each_recordHalt (k : Channel.Kept B P) {s : State} (f : FaultKind) (l : Location) (e : s.Each P) :
    (s.recordHalt f l).Each P := by
  unfold State.recordHalt
  dsimp only
  split
  · exact (s.recordFault_only ..).each (by decide) (by decide) e
  · intro c hc
    rw [State.chan_mapChans, if_pos hc]
    exact k.stop _ _ _ (e c hc)

theorem State.each_endStartUp (k : Channel.Kept B P) {s : State} (b : Bool) (hd : s.device ≠ .halted) (e : s.Each P) :
    (s.endStartUp b).Each P := by
  have h0 : ({ s with device := .operating } : State).Each P := by
    intro c hc
    have := e c hc
    rwa [State.isHalted, show (s.device == Device.halted) = false by simpa using hd] at this
  unfold State.endStartUp
  dsimp only
  refine (State.restartSweep_only _).each (by decide) (by decide) ?_
  split <;> split
  · exact State.each_recordHalt k _ _ h0
  · exact State.each_recordHalt k _ _ (State.each_recordHalt k _ _ h0)
  · exact h0
  · exact State.each_recordHalt k _ _ h0

/-- A channel unit as RSTN rises: its reset values, with its return line at the level found there (R154). -/
theorem get_risenChannels (lines : BitVec 16) {c : Nat} (h : c < Config.channels) :
    Table.get Channel.reset (risenChannels lines) c = { Channel.reset with rxWire := lines.getLsbD c } := by
  rw [risenChannels, Table.get_tabulate, if_pos h]

theorem State.each_riseWith (k : Channel.Kept B P) {s : State} (pins : Pins) : (s.riseWith pins).Each P := by
  have h0 : ({ s.heldInReset with
      straps := pins.straps, device := .selftest, chans := risenChannels pins.lines } : State).Each P := by
    intro c hc
    simp only [State.chan, get_risenChannels pins.lines hc]
    exact k.receiver _ _ _ _ _ k.reset
  have h1 : ∀ t : State, t.Each P → t.takeStandingLoan.Each P := by
    intro t ht
    unfold State.takeStandingLoan
    split
    · exact t.loanAsked_only.each (by decide) (by decide) ht
    · exact ht
  unfold State.riseWith
  dsimp only
  refine h1 _ ?_
  split
  · exact h0
  · exact State.each_endStartUp k _ (by simp) h0

theorem Channel.Kept.frameDue (k : Channel.Kept B P) {h : Bool} {ch : Channel} (now : Nat) (tag : BitVec 16)
    (ha : ch.OnAir) (e : P h ch) : P h (ch.frameDue now tag) := by
  unfold Channel.frameDue
  split
  · exact k.frame _ _ _ _ (.inl ha) e
  · exact k.pendFrame _ _ _ ha e

/-- A kept condition is kept by a switch point (R161, R164, R140, R129). -/
theorem Channel.Kept.switchPoint (k : Channel.Kept B P) {h : Bool} {ch : Channel} (c now : Nat) (tag : BitVec 16)
    (e : P h ch) : P h (ch.switchPoint c now tag).1 := by
  unfold Channel.switchPoint
  split
  · exact e
  · exact e
  · split
    · have e' := k.helloCount _ _ ‹_› ‹_› e
      unfold Channel.helloDue
      split
      · exact k.hello _ _ _ _ e'
      · exact k.pendHello _ _ e'
    · exact k.stop _ _ _ e
  · have ha := Channel.account_onAir ‹ch.state = .running›
    exact k.frameDue _ _ (Channel.countTick_onAir ha) (k.tick _ _ ha (k.account _ _ ‹_› e))
  · exact k.frameDue _ _ (.inr ‹_›) e

theorem State.each_switchPoint (k : Channel.Kept B P) {s : State} (e : s.Each P) : s.switchPoint.Each P := by
  unfold State.switchPoint
  have h0 : (({ s with frame := { s.frame with count := s.frame.count + 1 } } : State).gatherSwitchPoint).Each P :=
    (State.gatherSwitchPoint_only _).each (by decide) (by decide)
      ((s.setFrame_only { s.frame with count := s.frame.count + 1 }).each (by decide) (by decide) e)
  revert h0
  generalize ({ s with frame := { s.frame with count := s.frame.count + 1 } } : State).gatherSwitchPoint = t
  generalize List.range Config.channels = l
  intro h0
  induction l generalizing t with
  | nil => exact h0
  | cons c l ih => exact ih _ (State.each_channelEvent (k.switchPoint _ _ _) h0)

theorem State.each_pulse (k : Channel.Kept B P) {s : State} (e : s.Each P) : s.pulse.Each P := by
  have hs : ∀ t : State, t.Each P → ∀ n l r, ((t.setSwitchTime n l r).clearCandidates).Each P := fun t ht n l r =>
    ((t.setSwitchTime_only n l r).trans (State.clearCandidates_only _)).each (by decide) (by decide) ht
  have hr : ∀ t : State, t.Each P → t.raiseReference.Each P := fun t ht =>
    t.raiseReference_only.each (by decide) (by decide) ht
  unfold State.pulse
  split
  · unfold State.acceptPulse
    dsimp only
    split
    · exact hr _ (hs _ (State.each_switchPoint k e) _ _ _)
    · exact hs _ (State.each_switchPoint k e) _ _ _
  · unfold State.rejectPulse
    dsimp only
    split
    · unfold State.reacquire
      dsimp only
      refine hr _ (hs _ ?_ _ _ _)
      split
      · exact (s.setFrame_only _).each (by decide) (by decide) e
      · exact State.each_switchPoint k ((s.setFrame_only _).each (by decide) (by decide) e)
    · exact (s.setFrame_only _).each (by decide) (by decide) e

theorem State.each_flywheel (k : Channel.Kept B P) {s : State} (e : s.Each P) : s.flywheel.Each P := by
  have h : ∀ n l r, (s.switchPoint.setSwitchTime n l r).Each P := fun n l r =>
    (State.setSwitchTime_only _ n l r).each (by decide) (by decide) (State.each_switchPoint k e)
  unfold State.flywheel
  dsimp only
  split
  · exact (State.raiseReference_only _).each (by decide) (by decide) (h _ _ _)
  · exact h _ _ _

theorem State.each_crosspointVisit (k : Channel.Kept B P) {s : State} (e : s.Each P) : s.crosspointVisit.Each P := by
  unfold State.crosspointVisit
  split
  · split
    · refine (State.advance_only _ _).each (by decide) (by decide) ?_
      unfold State.visitCrosspoint
      dsimp only
      split
      · exact State.each_enqueue k _ _ _ (k.slot _ (Nat.mod_lt _ (by decide)))
          (State.each_setChan (k.tile _ _ _ _ rfl) e)
      · exact e
    · exact (State.advance_only _ _).each (by decide) (by decide) e
  · exact e

theorem State.each_nameVisit (k : Channel.Kept B P) {s : State} (e : s.Each P) : s.nameVisit.Each P := by
  unfold State.nameVisit
  split
  · split
    · exact (State.advance_only _ _).each (by decide) (by decide)
        (State.each_enqueue k _ _ _ (k.slot _ (Nat.mod_lt _ (by decide))) e)
    · exact (State.advance_only _ _).each (by decide) (by decide) e
  · exact e

theorem State.each_runCommand {s : State} (l : List Byte) (run : State → State × List Byte) (h : (run s).1.Each P)
    (e : s.Each P) : (s.runCommand l run).Each P := by
  unfold State.runCommand
  split
  · exact e
  · split
    · exact (State.setMgmt_only _ _).each (by decide) (by decide) h
    · exact e
  · exact (State.setMgmt_only _ _).each (by decide) (by decide) e

theorem Param.clamp_le (p : Param) (v : Nat) : p.clamp v ≤ p.high := Nat.min_le_right ..

theorem State.each_runSetParam (k : Channel.Kept B P) {s : State} (n c : Byte) (v : BitVec 16) (b : Option Bool) (e : s.Each P) :
    (s.runSetParam n c v b).1.Each P := by
  unfold State.runSetParam State.refuse
  split
  · exact e
  · rename_i p _
    split
    · exact e
    · dsimp only
      split
      · exact e
      · cases p
        case tc => exact State.each_setChan (k.tc _ _ _ (Param.clamp_le .tc _)) e
        case budget => exact State.each_setChan (k.budget _ _ _ (Param.clamp_le .budget _)) e
        case interval => exact State.each_setChan (k.interval _ _ _) e
        case options => exact State.each_setChan (k.options _ _ _ _) e
        all_goals exact (State.setParams_only _ _).each (by decide) (by decide) e

theorem State.each_runAssign (k : Channel.Kept B P) {s : State}
    (c t l : Byte) (d : BitVec 16) (e : s.Each P) : (s.runAssign c t l d).1.Each P := by
  unfold State.runAssign State.refuse
  split
  · exact e
  · rename_i hr
    split
    · exact e
    · simp only [State.assignOutOfRange, decide_eq_true_eq, not_or, Nat.not_lt, Nat.not_le] at hr
      have ht : B t.toNat := k.assigned _ _ _ (e c.toNat (Nat.lt_of_le_of_lt hr.1 (by decide))) hr.2.1
      exact State.each_enqueue k _ _ _ ht (State.each_setChan (k.tile _ _ _ _ rfl) e)

theorem State.each_runUnassign (k : Channel.Kept B P) {s : State}
    (c t : Byte) (e : s.Each P) : (s.runUnassign c t).1.Each P := by
  unfold State.runUnassign State.refuse
  split
  · exact e
  · rename_i hr
    split
    · exact e
    · simp only [not_or, Nat.not_lt, Nat.not_le] at hr
      have ht : B t.toNat := k.assigned _ _ _ (e c.toNat (Nat.lt_of_le_of_lt hr.1 (by decide))) hr.2
      exact State.each_enqueue k _ _ _ ht (State.each_setChan (k.tile _ _ _ _ rfl) e)

theorem State.each_softReset (k : Channel.Kept B P) {s : State} (e : s.Each P) : s.softReset.Each P := by
  unfold State.softReset
  dsimp only
  refine (State.restartSweep_only _).each (by decide) (by decide) ?_
  exact State.each_mapChans (fun c ch h => k.soft _ _ _ h) e

/-- A condition that every channel action keeps is kept by every command at every channel. -/
theorem exec_each (k : Channel.Kept B P) {c : Instr} {s t : State}
    (hx : exec c s = .next t) (e : s.Each P) : t.Each P := by
  have keep : ∀ {fs : List Field} {u : State}, s.Only fs u → Field.device ∉ fs → Field.chans ∉ fs → u.Each P :=
    fun o hd hc => o.each hd hc e
  have settled : ∀ {fs : List Field} {u : State}, s.Only fs u → Field.device ∉ fs → Field.chans ∉ fs →
      (s.settle u).Each P := fun o hd hc => (State.settle_only _ _).each (by decide) (by decide) (keep o hd hc)
  have cmd : ∀ (l : List Byte) (run : State → State × List Byte), (run s).1.Each P →
      (if s.up then s.runCommand l run else s).Each P := by
    intro l run h
    split
    · exact State.each_runCommand _ _ h e
    · exact e
  have guarded : ∀ (b : Bool) (u : State), u.Each P → (if b then u else s).Each P := by
    intro b u h
    split
    · exact h
    · exact e
  cases c <;> injection hx with hx <;> subst hx
  case rstnFall => exact guarded _ _ fun _ _ => k.reset
  case rstnRise pins =>
    split
    · exact e
    · exact State.each_riseWith k _
  case selftestCompletion b =>
    split
    · refine State.each_endStartUp k _ (by simp [*]) ?_
      exact State.each_of_chans (s := s) rfl (fun _ => rfl) e
    · exact e
  case controlRequest p r => exact guarded _ _ (keep ((s.takePresented_only p).trans (State.presentRequest_only _ p r)) (by decide) (by decide))
  case waitTimeout p => exact guarded _ _ (settled (s.expireWait_only p) (by decide) (by decide))
  case issue => exact guarded _ _ (settled s.issue_only (by decide) (by decide))
  case readCompletion x y => exact guarded _ _ (settled (s.readCompletes_only x y) (by decide) (by decide))
  case writeCompletion => exact guarded _ _ (settled s.writeCompletes_only (by decide) (by decide))
  case memoryTimeout => exact guarded _ _ (settled s.memoryTimesOut_only (by decide) (by decide))
  case loanRequest => exact keep s.loanAsked_only (by decide) (by decide)
  case loanGrant => exact guarded _ _ (keep s.grantIfDrained_only (by decide) (by decide))
  case loanEnd => exact keep s.loanDropped_only (by decide) (by decide)
  case loanWithdrawal => exact keep s.loanDropped_only (by decide) (by decide)
  case refinPulse => exact guarded _ _ (State.each_pulse k e)
  case freeRunningSwitchPoint =>
    exact guarded _ _ ((State.setSwitchTime_only ..).each (by decide) (by decide) (State.each_switchPoint k e))
  case windowExpiry => exact guarded _ _ (State.each_flywheel k e)
  case statusLost c =>
    split
    · refine State.each_channelEvent (k.account _ _ ?_) e
      simp_all [Channel.lostDue]
    · exact e
  case endpointStalled c =>
    split
    · refine State.each_channelEvent (k.account _ _ ?_) e
      simp_all [Channel.stallDue]
    · exact e
  case debtTick c =>
    split
    · refine State.each_channelEvent (k.tick _ _ (.inl ?_)) e
      simp_all [Channel.tickDue]
    · exact e
  case startingTimeout c => exact guarded _ _ (State.each_channelEvent (k.stop _ _ _) e)
  case crosspointVisit => exact guarded _ _ (State.each_crosspointVisit k e)
  case nameChangeVisit => exact guarded _ _ (State.each_nameVisit k e)
  case messageEnd c => exact guarded _ _ (State.each_messageEnds k _ e)
  case status c m => exact guarded _ _ (State.each_receiveMessage k _ _ e)
  case framingError c =>
    obtain ⟨rx, er, mark, hr⟩ := Channel.framingError_receiver (s.chan c.val) s.now
    rw [hr]
    exact guarded _ _ (State.each_setChan (k.receiver _ _ _ _ _) e)
  case unknownType c b => exact guarded _ _ (State.each_receiveByte k _ _ _ e)
  case returnGapExpiry c => exact guarded _ _ (State.each_setChan (k.receiver _ _ .idle _ _) e)
  case transactionBegin =>
    split
    · exact keep (s.setMgmt_only _) (by decide) (by decide)
    · exact e
  case transactionEnd => exact guarded _ _ (keep (s.setMgmt_only _) (by decide) (by decide))
  case unknownCommand c => exact guarded _ _ (keep (s.unknownByte_only c) (by decide) (by decide))
  case identify => exact cmd _ _ e
  case readStatus => exact cmd _ _ e
  case readFault c =>
    refine cmd _ _ ?_
    split <;> exact e
  case clearEvents m => exact cmd _ _ (keep (s.clearMasked_only m) (by decide) (by decide))
  case setIrqMask m => exact cmd _ _ (keep (s.setMgmt_only _) (by decide) (by decide))
  case setParam n c v b => exact cmd _ _ (State.each_runSetParam k _ _ _ _ e)
  case getParam n c =>
    refine cmd _ _ ?_
    rw [State.runGetParam_only]
    exact e
  case assign c t l d => exact cmd _ _ (State.each_runAssign k _ _ _ _ e)
  case unassign c t => exact cmd _ _ (State.each_runUnassign k _ _ e)
  case readTile c t =>
    refine cmd _ _ ?_
    split <;> exact e
  case startChannels m =>
    refine cmd _ _ ?_
    unfold State.runStart State.refuse
    split
    · exact e
    · refine State.each_mapChans (f := fun c ch => if m.getLsbD c then ch.start s.now else ch) (fun c ch h => ?_) e
      have hh : s.isHalted = false := by simpa [State.isHalted]
      rw [hh] at h ⊢
      split
      · exact k.start _ _ h
      · exact h
  case stopChannels m =>
    refine cmd _ _ (State.each_mapChans (f := fun c ch => if m.getLsbD c then ch.stopEffects else ch)
      (fun c ch h => ?_) e)
    split
    · exact k.stop _ _ _ h
    · exact h
  case readChannel c =>
    refine cmd _ _ ?_
    split <;> exact e
  case resync => exact cmd _ _ (keep s.runResync_only (by decide) (by decide))
  case softReset => exact cmd _ _ (State.each_softReset k e)
  case lineReturnedToMark c => exact guarded _ _ (State.each_setChan (k.receiver _ _ _ _ _) e)
  case returnByte c b => exact guarded _ _ (State.each_receiveByte k _ _ _ e)

end Sys2Proof.Machine
end

