-- ==== Sys2Proof/Laws/Ecc.lean ====
section
/-! SUPPORT. The check code is linear (R70, R72): check bits, syndrome and overall parity of a sum of words are the sums of
theirs, so an error shows the same syndrome whatever the word. -/

namespace Sys2Proof

theorem foldl_xor_init (l : List Bool) (a : Bool) : l.foldl Bool.xor a = Bool.xor a (l.foldl Bool.xor false) := by
  induction l generalizing a with
  | nil => simp
  | cons x l ih => simp only [List.foldl_cons]; rw [ih, ih (Bool.xor false x)]; simp

theorem oddOnes_cons (x : Bool) (l : List Bool) : oddOnes (x :: l) = Bool.xor x (oddOnes l) := by
  simp only [oddOnes, List.foldl_cons]; rw [foldl_xor_init]; simp

theorem oddOnes_xor {α : Type} (f g : α → Bool) (l : List α) :
    oddOnes (l.map fun i => Bool.xor (f i) (g i)) = Bool.xor (oddOnes (l.map f)) (oddOnes (l.map g)) := by
  induction l with
  | nil => rfl
  | cons x l ih =>
    simp only [List.map_cons, oddOnes_cons, ih]
    cases f x <;> cases g x <;> cases oddOnes (l.map f) <;> cases oddOnes (l.map g) <;> rfl

theorem oddOnes_bitList_xor {w : Nat} (x y : BitVec w) :
    oddOnes (bitList (x ^^^ y)) = Bool.xor (oddOnes (bitList x)) (oddOnes (bitList y)) := by
  have h : (x ^^^ y).getLsbD = fun i => Bool.xor (x.getLsbD i) (y.getLsbD i) := by funext i; simp
  simp only [bitList, h, oddOnes_xor]

theorem checkBit_xor (x y : BitVec 32) (k : Nat) :
    checkBit (x ^^^ y) k = Bool.xor (checkBit x k) (checkBit y k) := by
  have h : (fun i => (dataPosition i).testBit k && (x ^^^ y).getLsbD i) =
      fun i => Bool.xor ((dataPosition i).testBit k && x.getLsbD i) ((dataPosition i).testBit k && y.getLsbD i) := by
    funext i; simp only [BitVec.getLsbD_xor]
    cases (dataPosition i).testBit k <;> simp
  simp only [checkBit, h, oddOnes_xor]

theorem lowCheckBits_xor (x y : BitVec 32) : lowCheckBits (x ^^^ y) = lowCheckBits x ^^^ lowCheckBits y := by
  simp only [lowCheckBits, checkBit_xor]
  generalize checkBit x 5 = a5; generalize checkBit x 4 = a4; generalize checkBit x 3 = a3
  generalize checkBit x 2 = a2; generalize checkBit x 1 = a1; generalize checkBit x 0 = a0
  generalize checkBit y 5 = b5; generalize checkBit y 4 = b4; generalize checkBit y 3 = b3
  generalize checkBit y 2 = b2; generalize checkBit y 1 = b1; generalize checkBit y 0 = b0
  revert a5 a4 a3 a2 a1 a0 b5 b4 b3 b2 b1 b0
  decide

theorem syndrome_xor (x y : BitVec 32) (c d : BitVec 7) :
    syndrome (x ^^^ y) (c ^^^ d) = syndrome x c ^^^ syndrome y d := by
  have h : (c ^^^ d).extractLsb' 0 6 = c.extractLsb' 0 6 ^^^ d.extractLsb' 0 6 := by
    revert c d; decide
  simp only [syndrome, lowCheckBits_xor, h, ← BitVec.toNat_xor]
  congr 1
  ac_rfl

theorem overallOdd_xor (x y : BitVec 32) (c d : BitVec 7) :
    overallOdd (x ^^^ y) (c ^^^ d) = Bool.xor (overallOdd x c) (overallOdd y d) := by
  simp only [overallOdd, oddOnes_bitList_xor]
  cases oddOnes (bitList x) <;> cases oddOnes (bitList y) <;> cases oddOnes (bitList c) <;> cases oddOnes (bitList d) <;> rfl

/-- The check bits generated for a word show no error. -/
theorem encodeCheck_spec (x : BitVec 32) : syndrome x (encodeCheck x) = 0 ∧ overallOdd x (encodeCheck x) = false := by
  have h : ∀ (l : BitVec 6) (p : Bool),
      (BitVec.ofBool (Bool.xor p (oddOnes (bitList l))) ++ l : BitVec 7).extractLsb' 0 6 = l ∧
        Bool.xor p (oddOnes (bitList (BitVec.ofBool (Bool.xor p (oddOnes (bitList l))) ++ l : BitVec 7))) = false := by
    decide
  obtain ⟨h1, h2⟩ := h (lowCheckBits x) (oddOnes (bitList x))
  refine ⟨?_, h2⟩
  simp only [syndrome, encodeCheck, h1, BitVec.xor_self]
  rfl

end Sys2Proof
end

