-- ==== Sys2Proof/Laws/Faults.lean ====
section
/-! SUPPORT. The fault classes through the shared operations: an operation that touches them records faults in them, and does
nothing else to them (R77, R81). -/

namespace Sys2Proof.Machine

/-- The fault classes of `t` are those of `s` with faults recorded in them: what every record keeps holds of them still. -/
structure State.Recorded (s t : State) : Prop where
  keep : ∀ Q : ClassState → Prop, (∀ st c, Q st → Q (st.record c)) → ∀ n, Q (s.classState n) → Q (t.classState n)

theorem State.Recorded.refl (s : State) : s.Recorded s := ⟨fun _ _ _ h => h⟩

theorem State.Recorded.trans {s t u : State} (h : s.Recorded t) (g : t.Recorded u) : s.Recorded u :=
  ⟨fun Q hq n hn => g.keep Q hq n (h.keep Q hq n hn)⟩

theorem State.Only.recorded {fs : List Field} {s t : State} (h : s.Only fs t) (hf : Field.faults ∉ fs) : s.Recorded t :=
  ⟨fun Q _ n hn => by rwa [h.classState hf]⟩

theorem State.recordFault_recorded (s : State) (k : FaultKind) (o : Origin) (l : Location) :
    s.Recorded (s.recordFault k o l) :=
  ⟨fun Q hq n hn => by
    rw [State.classState_recordFault]
    split
    · exact hq _ _ hn
    · exact hn⟩

theorem State.Recorded.foldl {α : Type} (g : State → α → State) (hg : ∀ (s : State) (x : α), s.Recorded (g s x))
    (l : List α) (s : State) : s.Recorded (l.foldl g s) := by
  induction l generalizing s with
  | nil => exact .refl s
  | cons x l ih => exact (hg s x).trans (ih (g s x))

/-- A record keeps a class consistent (R75, R77). -/
theorem ClassState.record_consistent (st : ClassState) (c : Capture) : (st.record c).Consistent := by
  refine ⟨by simp [ClassState.record], ?_, Nat.min_le_right ..⟩
  simp [ClassState.record, bump, Config.countMax]

/-- A clear class is consistent. -/
theorem ClassState.clear_consistent : ClassState.clear.Consistent := by decide

theorem State.addReread_recorded (s : State) (a : WordAddr) : s.Recorded (s.addReread a) := by
  unfold State.addReread
  split
  · exact .refl s
  · split
    · exact (s.setFetch_only _).recorded (by decide)
    · exact (((s.setFetch_only _).recorded (by decide)).trans (State.recordFault_recorded ..)).trans
        ((State.restartSweep_only _).recorded (by decide))

theorem State.grantIfDrained_recorded (s : State) : s.Recorded s.grantIfDrained := by
  unfold State.grantIfDrained State.grantLoan
  split
  · exact State.Recorded.trans (t := { s with loan := .granted, shadow := s.shadow.downgrade })
      ⟨fun _ _ _ h => h⟩ (State.recordFault_recorded ..)
  · exact .refl s

theorem State.refuseRequest_recorded (s : State) (p : PortId) (k : FaultKind) (a : WordAddr) :
    s.Recorded (s.refuseRequest p k a) :=
  ((s.setPort_only ..).recorded (by decide)).trans (State.recordFault_recorded ..)

theorem State.recordWriteDecode_recorded (s : State) (p : PortId) (o : EccOutcome) (a : WordAddr) :
    s.Recorded (s.recordWriteDecode p o a) := by
  unfold State.recordWriteDecode
  split
  · exact .refl s
  · exact s.recordFault_recorded ..
  · split <;> exact s.recordFault_recorded ..

theorem State.takeRequest_recorded (s : State) (p : PortId) (r : Request) : s.Recorded (s.takeRequest p r) := by
  unfold State.takeRequest
  split
  · exact State.refuseRequest_recorded ..
  · split
    · exact State.refuseRequest_recorded ..
    · split
      · exact (State.recordWriteDecode_recorded ..).trans ((State.acceptWrite_only ..).recorded (by decide))
      · exact (State.makePending_only ..).recorded (by decide)

theorem State.presentRequest_recorded (s : State) (p : PortId) (r : Request) : s.Recorded (s.presentRequest p r) := by
  unfold State.presentRequest
  split
  · exact State.takeRequest_recorded ..
  · exact (State.setPort_only ..).recorded (by decide)

theorem State.takePresented_recorded (s : State) (p : PortId) : s.Recorded (s.takePresented p) := by
  unfold State.takePresented
  split
  · exact .refl s
  · exact ((State.setPort_only ..).recorded (by decide)).trans (.foldl _ (fun s _ => s.presentRequest_recorded ..) _ _)

theorem State.freeing_recorded (s t : State) (p : PortId) : t.Recorded (s.freeing t p) := by
  unfold State.freeing
  split
  · exact t.takePresented_recorded p
  · exact .refl t

theorem State.settle_recorded (s t : State) : t.Recorded (s.settle t) :=
  (s.freeing_recorded t .a).trans (s.freeing_recorded _ .b)

theorem State.expireWait_recorded (s : State) (p : PortId) : s.Recorded (s.expireWait p) := by
  unfold State.expireWait
  split
  · split
    · exact ((s.answerPort_only ..).recorded (by decide)).trans (State.recordFault_recorded ..)
    · exact .refl s
  · exact .refl s

theorem State.snoop_recorded (s : State) (w : WriteWord) : s.Recorded (s.snoop w) := by
  unfold State.snoop
  dsimp only
  split
  · exact ((s.actOnWord_only ..).recorded (by decide)).trans (State.addReread_recorded ..)
  · exact (s.actOnWord_only ..).recorded (by decide)

theorem State.issueWrite_recorded (s : State) (p : PortId) (w : WriteWord) (b : Bool) :
    s.Recorded (s.issueWrite p w b) :=
  (((s.markStale_only _).recorded (by decide)).trans ((State.appendAccess_only ..).recorded (by decide))).trans
    (State.snoop_recorded ..)

theorem State.issueGrant_recorded (s : State) (g : Grant) : s.Recorded (s.issueGrant g) := by
  unfold State.issueGrant
  split
  · exact (s.takeFetchRead_only.recorded (by decide)).trans ((State.issueRead_only ..).recorded (by decide))
  · split
    · exact .refl s
    · dsimp only
      split
      · exact ((s.setPort_only ..).recorded (by decide)).trans ((State.issueRead_only ..).recorded (by decide))
      · exact ((s.setPort_only ..).recorded (by decide)).trans (State.issueWrite_recorded ..)
  · split
    · exact .refl s
    · exact ((s.setPort_only ..).recorded (by decide)).trans (State.issueWrite_recorded ..)

theorem State.issue_recorded (s : State) : s.Recorded s.issue := by
  unfold State.issue
  split
  · split
    · exact ((s.noteGrant_only _).recorded (by decide)).trans (State.issueGrant_recorded ..)
    · exact .refl s
  · exact .refl s

theorem State.trackRead_recorded (s : State) (o : Origin) (a : WordAddr) (d : Decoded) :
    s.Recorded (s.trackRead o a d) := by
  unfold State.trackRead
  split
  · exact (s.actOnWord_only ..).recorded (by decide)
  · dsimp only
    split
    · exact ((s.actOnWord_only ..).recorded (by decide)).trans (State.recordFault_recorded ..)
    · exact (s.actOnWord_only ..).recorded (by decide)

theorem State.recordReadDecode_recorded (s : State) (e : Access) (o : EccOutcome) :
    s.Recorded (s.recordReadDecode e o) := by
  unfold State.recordReadDecode
  split
  · exact .refl s
  · split <;> exact s.recordFault_recorded ..
  · split <;> exact s.recordFault_recorded ..

theorem State.deliverRead_recorded (s : State) (e : Access) (stale : Bool) (d : Decoded) :
    s.Recorded (s.deliverRead e stale d) := by
  unfold State.deliverRead
  split
  · exact (s.answerPort_only ..).recorded (by decide)
  · dsimp only
    split
    · exact (s.finishFetch_only.recorded (by decide)).trans (State.addReread_recorded ..)
    · exact s.finishFetch_only.recorded (by decide)

theorem State.completeRead_recorded (s : State) (e : Access) (stale : Bool) (x : BitVec 32) (c : BitVec 7) :
    s.Recorded (s.completeRead e stale x c) := by
  unfold State.completeRead
  dsimp only
  refine State.Recorded.trans ?_ (State.deliverRead_recorded ..)
  split
  · exact (State.recordReadDecode_recorded ..).trans (State.trackRead_recorded ..)
  · exact State.recordReadDecode_recorded ..

theorem State.readCompletes_recorded (s : State) (x : BitVec 32) (c : BitVec 7) : s.Recorded (s.readCompletes x c) := by
  unfold State.readCompletes
  split
  · exact .refl s
  · split
    · exact (((s.popInflight_only _).recorded (by decide)).trans (State.completeRead_recorded ..)).trans
        (State.grantIfDrained_recorded _)
    · exact .refl s

theorem State.writeCompletes_recorded (s : State) : s.Recorded s.writeCompletes := by
  unfold State.writeCompletes
  split
  · exact .refl s
  · split
    · exact .refl s
    · refine State.Recorded.trans ?_ (State.grantIfDrained_recorded _)
      have h : ∀ l, s.Recorded (s.popInflight l) := fun l => (s.popInflight_only l).recorded (by decide)
      split
      · split
        · exact h _
        · exact (h _).trans ((State.answerPort_only ..).recorded (by decide))
      · exact h _

theorem State.abandon_recorded (s : State) (e : Access) : s.Recorded (s.abandon e) := by
  unfold State.abandon
  split
  · exact ((s.answerPort_only ..).recorded (by decide)).trans (State.recordFault_recorded ..)
  · exact ((s.finishFetch_only.recorded (by decide)).trans (State.recordFault_recorded ..)).trans
      (State.addReread_recorded ..)
  · rename_i posted p _ _
    have h : s.Recorded (if posted then s else s.answerPort p .fail) := by
      split
      · exact .refl s
      · exact (s.answerPort_only ..).recorded (by decide)
    dsimp only
    split
    · exact h
    · exact ((h.trans ((State.actOnWord_only ..).recorded (by decide))).trans (State.recordFault_recorded ..)).trans
        (State.addReread_recorded ..)
  · exact .refl s

theorem State.memoryTimesOut_recorded (s : State) : s.Recorded s.memoryTimesOut := by
  unfold State.memoryTimesOut
  split
  · exact .refl s
  · split
    · exact (((s.popInflight_only _).recorded (by decide)).trans (.foldl _ State.abandon_recorded _ _)).trans
        (State.grantIfDrained_recorded _)
    · exact .refl s

theorem State.loanAsked_recorded (s : State) : s.Recorded s.loanAsked := by
  unfold State.loanAsked
  dsimp only
  split
  · exact State.Recorded.trans (t := { s with loanReq := true, loan := .requested }) ⟨fun _ _ _ h => h⟩
      (State.grantIfDrained_recorded _)
  · exact ⟨fun _ _ _ h => h⟩

theorem State.channelEvent_recorded (s : State) (c : Nat) (r : Channel × List FaultKind) :
    s.Recorded (s.channelEvent c r) :=
  ((s.setChan_only ..).recorded (by decide)).trans (.foldl _ (fun s _ => s.recordFault_recorded ..) _ _)

theorem State.receiveByte_recorded (s : State) (c t : Nat) (b : Byte) : s.Recorded (s.receiveByte c t b) := by
  unfold State.receiveByte State.validStatus
  dsimp only
  have h : s.Recorded (s.setChan c ((s.chan c).takeByte t b).1) := (s.setChan_only ..).recorded (by decide)
  split
  · split
    · exact (h.trans (State.channelEvent_recorded ..)).trans ((State.decideSlot_only ..).recorded (by decide))
    · exact h.trans (State.channelEvent_recorded ..)
  · exact h

theorem State.receiveMessage_recorded (s : State) (c : Nat) (l : List Byte) : s.Recorded (s.receiveMessage c l) :=
  .foldl _ (fun s _ => s.receiveByte_recorded ..) _ s

theorem State.recordHalt_recorded (s : State) (k : FaultKind) (l : Location) : s.Recorded (s.recordHalt k l) := by
  unfold State.recordHalt
  dsimp only
  split
  · exact s.recordFault_recorded ..
  · exact (s.recordFault_recorded ..).trans ⟨fun _ _ _ h => h⟩

theorem State.endStartUp_recorded (s : State) (b : Bool) : s.Recorded (s.endStartUp b) := by
  have h : s.Recorded { s with device := .operating } := ⟨fun _ _ _ h => h⟩
  unfold State.endStartUp
  dsimp only
  refine State.Recorded.trans ?_ ((State.restartSweep_only _).recorded (by decide))
  split <;> split
  · exact h.trans (State.recordHalt_recorded ..)
  · exact (h.trans (State.recordHalt_recorded ..)).trans (State.recordHalt_recorded ..)
  · exact h
  · exact h.trans (State.recordHalt_recorded ..)

theorem State.switchPoint_recorded (s : State) : s.Recorded s.switchPoint := by
  have h : s.Recorded { s with frame := { s.frame with count := s.frame.count + 1 } } := ⟨fun _ _ _ h => h⟩
  have g : ∀ t : State, t.Recorded t.gatherSwitchPoint := by
    intro t
    unfold State.gatherSwitchPoint State.lateTake
    split
    · exact t.closeGather_only.recorded (by decide)
    · exact ((t.setGather_only _).recorded (by decide)).trans (State.recordFault_recorded ..)
  exact (h.trans (g _)).trans (.foldl _ (fun s _ => s.channelEvent_recorded ..) _ _)

theorem State.pulse_recorded (s : State) : s.Recorded s.pulse := by
  have hs : ∀ (t : State) n l r, t.Recorded ((t.setSwitchTime n l r).clearCandidates) := fun t n l r =>
    ((t.setSwitchTime_only n l r).trans (State.clearCandidates_only _)).recorded (by decide)
  have hr : ∀ t : State, t.Recorded t.raiseReference := fun t => t.raiseReference_only.recorded (by decide)
  unfold State.pulse
  split
  · unfold State.acceptPulse
    dsimp only
    split
    · exact (s.switchPoint_recorded.trans (hs _ _ _ _)).trans (hr _)
    · exact s.switchPoint_recorded.trans (hs _ _ _ _)
  · unfold State.rejectPulse State.reacquire
    dsimp only
    split
    · refine State.Recorded.trans (State.Recorded.trans ?_ (hs _ _ _ _)) (hr _)
      split
      · exact (s.setFrame_only _).recorded (by decide)
      · exact ((s.setFrame_only _).recorded (by decide)).trans (State.switchPoint_recorded _)
    · exact (s.setFrame_only _).recorded (by decide)

theorem State.flywheel_recorded (s : State) : s.Recorded s.flywheel := by
  have h : ∀ n l r, s.Recorded (s.switchPoint.setSwitchTime n l r) := fun n l r =>
    s.switchPoint_recorded.trans ((State.setSwitchTime_only _ n l r).recorded (by decide))
  unfold State.flywheel
  dsimp only
  split
  · exact (h _ _ _).trans ((State.raiseReference_only _).recorded (by decide))
  · exact h _ _ _

end Sys2Proof.Machine
end

