-- ==== Sys2Proof/Laws/Stores.lean ====
section
/-! SUPPORT. What the shared operations do to the stores that conditions speak of: the in-flight list with the loan, the posted
queues, the dirty list with the take queue, the re-read list, and the tables. -/

namespace Sys2Proof.Machine

/-! ### In-flight list and loan (R37, R49, R50) -/

/-- The grant is made exactly where a request finds the list empty (R50). -/
theorem State.grantIfDrained_loan (s : State) :
    s.grantIfDrained.loan = if s.loan = .requested ∧ s.memPort.inflight = [] then .granted else s.loan := by
  unfold State.grantIfDrained
  split <;> rfl

/-- After the grant has been looked to, a bounded list outside a granted loan is sound. -/
theorem State.grantIfDrained_busSound (s : State) (h : s.memPort.inflight.length ≤ Config.inflightMax)
    (g : s.loan ≠ .granted) : s.grantIfDrained.BusSound := by
  have hm : s.grantIfDrained.memPort = s.memPort := s.grantIfDrained_only.memPort (by decide)
  refine ⟨by rw [hm]; exact h, ?_, ?_⟩ <;> rw [hm, State.grantIfDrained_loan] <;> intro hl
  · split at hl
    · exact (‹_ ∧ _›).2
    · exact absurd hl g
  · split at hl
    · cases hl
    · rename_i hn
      exact fun he => hn ⟨hl, he⟩

/-- An issue adds one access at most, and only with no loan and fewer than four in flight (R38, R39). -/
theorem State.issue_inflight (s : State) :
    s.issue.memPort.inflight = s.memPort.inflight ∨
      (s.loan = .none ∧ s.memPort.inflight.length < Config.inflightMax ∧
        s.issue.memPort.inflight.length ≤ s.memPort.inflight.length + 1) := by
  have snoop : ∀ (t : State) w, (t.snoop w).memPort = t.memPort := fun t w => (t.snoop_only w).memPort (by decide)
  have take : ∀ t : State, t.takeFetchRead.memPort = t.memPort := fun t => t.takeFetchRead_only.memPort (by decide)
  have note : ∀ (t : State) g, (t.noteGrant g).memPort.inflight = t.memPort.inflight := by
    intro t g
    cases g <;> rfl
  unfold State.issue
  split
  · rename_i hc
    simp only [State.canIssue, Bool.and_eq_true, decide_eq_true_eq] at hc
    split
    · rename_i g hg
      have key : ((s.noteGrant g).issueGrant g).memPort.inflight = s.memPort.inflight ∨
          ((s.noteGrant g).issueGrant g).memPort.inflight.length = s.memPort.inflight.length + 1 := by
        have hn := note s g
        generalize s.noteGrant g = t at hn
        rw [← hn]
        unfold State.issueGrant
        split
        · exact .inr (by simp [State.issueRead, State.appendAccess, take])
        · split
          · exact .inl rfl
          · dsimp only
            split
            · exact .inr (by simp [State.issueRead, State.appendAccess])
            · exact .inr (by simp [State.issueWrite, State.appendAccess, State.markStale, snoop])
        · split
          · exact .inl rfl
          · exact .inr (by simp [State.issueWrite, State.appendAccess, State.markStale, snoop])
      rcases key with h | h
      · exact .inl h
      · exact .inr ⟨hc.1, hc.2, by omega⟩
    · exact .inl rfl
  · exact .inl rfl

/-- A completion leaves the in-flight list as it is or takes its oldest access away, and then looks to the grant (R40, R41). -/
theorem State.readCompletes_bus (s : State) (x : BitVec 32) (c : BitVec 7) :
    s.readCompletes x c = s ∨
      ∃ (e : Access) (rest : List Access) (t : State), s.memPort.inflight = e :: rest ∧ s.readCompletes x c = t.grantIfDrained ∧ t.memPort.inflight = rest ∧
        t.loan = s.loan := by
  unfold State.readCompletes
  split
  · exact .inl rfl
  · rename_i e rest hl
    split
    · exact .inr ⟨e, rest, _, hl, rfl, congrArg MemPort.inflight ((State.completeRead_only ..).memPort (by decide)),
        (State.completeRead_only ..).loan (by decide)⟩
    · exact .inl rfl

theorem State.writeCompletes_bus (s : State) :
    s.writeCompletes = s ∨
      ∃ (e : Access) (rest : List Access) (t : State), s.memPort.inflight = e :: rest ∧ s.writeCompletes = t.grantIfDrained ∧ t.memPort.inflight = rest ∧
        t.loan = s.loan := by
  unfold State.writeCompletes
  split
  · exact .inl rfl
  · rename_i e rest hl
    split
    · exact .inl rfl
    · refine .inr ⟨e, rest, _, hl, rfl, ?_, ?_⟩
      · split
        · split
          · rfl
          · exact congrArg MemPort.inflight ((State.answerPort_only ..).memPort (by decide))
        · rfl
      · split
        · split
          · rfl
          · exact (State.answerPort_only ..).loan (by decide)
        · rfl

/-- A memory timeout empties the list and then looks to the grant (R43). -/
theorem State.memoryTimesOut_bus (s : State) :
    s.memoryTimesOut = s ∨
      ∃ t : State, s.memoryTimesOut = t.grantIfDrained ∧ t.memPort.inflight = [] ∧ t.loan = s.loan := by
  unfold State.memoryTimesOut
  split
  · exact .inl rfl
  · split
    · have h := State.Only.foldl State.abandon State.abandon_only (s.memPort.inflight) (s.popInflight [])
      rw [‹s.memPort.inflight = _›] at h
      exact .inr ⟨_, rfl, congrArg MemPort.inflight (h.memPort (by decide)), h.loan (by decide)⟩
    · exact .inl rfl

/-! ### Re-read list (R65, R66) -/

/-- An addition keeps the list within 16 words and without repeats. -/
theorem State.addReread_list (s : State) (a : WordAddr)
    (h : s.fetch.reread.length ≤ Config.rereadMax ∧ s.fetch.reread.Nodup) :
    (s.addReread a).fetch.reread.length ≤ Config.rereadMax ∧ (s.addReread a).fetch.reread.Nodup := by
  unfold State.addReread
  split
  · exact h
  · split
    · refine ⟨by simp; omega, ?_⟩
      rw [List.nodup_append]
      refine ⟨h.2, by simp, ?_⟩
      intro x hx y hy
      simp at hy
      subst hy
      rintro rfl
      exact absurd hx ‹_›
    · unfold State.restartSweep
      split <;> exact ⟨Nat.zero_le _, List.nodup_nil⟩

/-! ### Dirty list (R96, R97) -/

/-- An entry is found in a dirty list exactly when it is listed. -/
theorem dirtyValue_none {l : List (Entry × Value)} {e : Entry} : dirtyValue l e = none ↔ e ∉ l.map Prod.fst := by
  induction l with
  | nil => simp [dirtyValue]
  | cons p l ih =>
    obtain ⟨x, v⟩ := p
    simp only [dirtyValue, List.map_cons, List.mem_cons, not_or]
    split
    · subst_vars
      simp
    · rw [ih]
      exact ⟨fun h => ⟨fun he => ‹¬x = e› he.symm, h⟩, fun h => h.2⟩

/-- A report keeps the dirty list without repeats (R96). -/
theorem State.report_nodup (s : State) (e : Entry) (v : Value) (h : (s.gather.dirty.map Prod.fst).Nodup) :
    ((s.report e v).gather.dirty.map Prod.fst).Nodup := by
  unfold State.report
  split
  · exact h
  · rename_i hn
    have hn := dirtyValue_none.mp hn
    show ((s.gather.dirty ++ [(e, v)]).map Prod.fst).Nodup
    rw [List.map_append, List.nodup_append]
    refine ⟨h, by simp, ?_⟩
    intro x hx y hy
    simp at hy
    subst hy
    rintro rfl
    exact hn hx

/-- A report does not touch the take queue or the counts of the gather unit. -/
theorem State.report_rest (s : State) (e : Entry) (v : Value) :
    (s.report e v).gather = { s.gather with dirty := (s.report e v).gather.dirty } := by
  unfold State.report
  split <;> rfl

/-- Reporting changes keeps the dirty list without repeats and the take queue as it is (R96). -/
theorem State.reportFold_gather (change : Entry → Option Value) (l : List Entry) (acc : State) :
    let t := l.foldl (fun acc e => match change e with
      | none => acc
      | some v => acc.report e v) acc
    ((acc.gather.dirty.map Prod.fst).Nodup → (t.gather.dirty.map Prod.fst).Nodup) ∧
      t.gather.takeQueue = acc.gather.takeQueue := by
  induction l generalizing acc with
  | nil => exact ⟨id, rfl⟩
  | cons e l ih =>
    rw [List.foldl_cons]
    cases change e with
    | none => exact ih acc
    | some v =>
      refine ⟨fun h => (ih _).1 (State.report_nodup _ _ _ h), (ih _).2.trans ?_⟩
      rw [State.report_rest]

/-- Reporting an event on a word keeps the dirty list without repeats and the take queue as it is (R19, R96). -/
theorem State.actOnWord_gather (s : State) (a : WordAddr) (f : Quality Route → Quality Route)
    (g : Quality (BitVec 32) → Quality (BitVec 32)) :
    ((s.gather.dirty.map Prod.fst).Nodup → ((s.actOnWord a f g).gather.dirty.map Prod.fst).Nodup) ∧
      (s.actOnWord a f g).gather.takeQueue = s.gather.takeQueue := by
  unfold State.actOnWord
  split
  · generalize ht : ({ s with shadow := s.shadow.update s.straps a f g } : State) = t
    have hg : t.gather = s.gather := by rw [← ht]
    rw [← hg]
    have := State.reportFold_gather (fun e => if t.tracked e = s.tracked e then none else some (s.tracked e))
      (t.straps.entriesAt a) t
    have hf : t.reportChanges s a = (t.straps.entriesAt a).foldl (fun acc e =>
        match if t.tracked e = s.tracked e then none else some (s.tracked e) with
        | none => acc
        | some v => acc.report e v) t := by
      unfold State.reportChanges
      congr 1
      funext acc e
      by_cases h : t.tracked e = s.tracked e <;> simp [h]
    rw [hf]
    exact this
  · exact ⟨id, rfl⟩

/-! ### Take queue (R99, R102, R116) -/

/-- The engine taken up: the queue is what is left of the list from some record on, and the engine idles exactly on an empty
one. -/
theorem State.takeUp_spec (s : State) (l : List TakeRecord) :
    (s.takeUp l).1 <:+ l ∧ ((s.takeUp l).2 = none ↔ (s.takeUp l).1 = []) := by
  induction l with
  | nil => exact ⟨List.suffix_refl _, by simp [State.takeUp]⟩
  | cons r l ih =>
    simp only [State.takeUp]
    split
    · exact ⟨List.suffix_refl _, by simp⟩
    · exact ⟨ih.1.trans (List.suffix_cons ..), ih.2⟩

end Sys2Proof.Machine
end

