-- ==== Sys2Proof/WellFormed.lean ====
section
/-! DEFINITION. Which command terms name an event that can exist. The operand types already hold most of it; two rows
are named after a byte's value, and a term whose byte has another value is ill-formed. The machine does not rely on this
check: it answers every term. -/

namespace Sys2Proof

/-- The type byte of a STATUS message (R155). -/
def statusType : Byte := 0xB1

/-- A command term is well formed when the byte it is named after has the value its row speaks of: an unknown type byte is not 0xB1, and a STATUS begins with 0xB1 (R156). -/
def Instr.wellFormed : Instr → Bool
  | .unknownCommand _ => true
  | .unknownType _ byte => byte != statusType
  | .status _ msg => msg.kind == statusType
  | .rstnFall => true
  | .rstnRise _ => true
  | .selftestCompletion _ => true
  | .controlRequest _ _ => true
  | .waitTimeout _ => true
  | .issue => true
  | .readCompletion _ _ => true
  | .writeCompletion => true
  | .memoryTimeout => true
  | .loanRequest => true
  | .loanGrant => true
  | .loanEnd => true
  | .loanWithdrawal => true
  | .refinPulse => true
  | .freeRunningSwitchPoint => true
  | .windowExpiry => true
  | .statusLost _ => true
  | .endpointStalled _ => true
  | .debtTick _ => true
  | .startingTimeout _ => true
  | .crosspointVisit => true
  | .nameChangeVisit => true
  | .messageEnd _ => true
  | .framingError _ => true
  | .returnGapExpiry _ => true
  | .transactionBegin => true
  | .transactionEnd => true
  | .identify => true
  | .readStatus => true
  | .readFault _ => true
  | .clearEvents _ => true
  | .setIrqMask _ => true
  | .setParam _ _ _ _ => true
  | .getParam _ _ => true
  | .assign _ _ _ _ => true
  | .unassign _ _ => true
  | .readTile _ _ => true
  | .startChannels _ => true
  | .stopChannels _ => true
  | .readChannel _ => true
  | .resync => true
  | .softReset => true
  | .lineReturnedToMark _ => true
  | .returnByte _ _ => true

end Sys2Proof
end

