-- ==== Sys2Proof/Tests/Slice0.lean ====
section
/-! SUPPORT. The model's own tests: the refusals of WellFormed, single steps of the spec's worked examples, and for each
statement with hypotheses a concrete state and operands that meet them, clause by clause. -/

namespace Sys2Proof.Tests

open Sys2Proof Sys2Proof.Machine

/-! ### Helpers -/

/-- The state a command leaves. -/
def after (c : Instr) (s : State) : State :=
  match exec c s with
  | .next t => t
  | .fault _ => s
  | .refused _ => s

/-- The straps of the worked examples: D = 256, L = 1, S = 1024, crosspoint region from word 32768. -/
def pins : Straps :=
  { xbase := 2, nbase := 3, dsel := 1, lsel := 0, ssel := 1, post := true, eccen := true, aparen := true, bist := false }

/-- Straps found as RSTN rises, with every return line at mark but channel 0's. -/
def foundAt (p : Straps) : Pins := { straps := p, lines := 0xFFFE }

/-- The part OPERATING under those straps. -/
def base : State := { State.reset with device := .operating, straps := pins, now := 1000 }

/-- The part in a management transaction that holds some bytes. -/
def holding (held : List Byte) (s : State) : State := { s with mgmt := { s.mgmt with spi := .transaction held none } }

/-- The part in a management transaction. -/
def opened (s : State) : State := holding [] s

/-- The part in a management transaction whose command has executed. -/
def answered (received reply : List Byte) (s : State) : State := s.replied received reply

theorem opened_awaits {s : State} (h : s.up = true) (b : Byte) (l : List Byte) : (opened s).Awaits (b :: l) :=
  ⟨h, [], rfl, List.nil_prefix, by simp⟩

/-- The part with one channel as given. -/
def withChan (c : Nat) (ch : Channel) (s : State) : State := s.setChan c ch

/-- A channel in RUNNING. -/
def running : Channel := { Channel.reset with state := .running }

/-- A FRAME on the line that ended at 900. -/
def ended : Transmission := { bytes := [], endsAt := 900 }

/-- A known tile state. -/
def shows (n : BitVec 11) : TileState := .known { source := n, protect := false }

/-- A route without the protect mark. -/
def route (n : BitVec 11) : Route := { source := n, protect := false }

/-- Crosspoint entry (0, d). -/
def entry (d : Nat) : Crosspoint := { level := 0, dest := d }

/-- A full, clean write of a source number. -/
def writeOf (a : WordAddr) (n : BitVec 32) : WriteWord :=
  { addr := a, lanes := 0xF, data := n, check := encodeCheck n, poisoned := false }

/-- An access in flight, issued at 900 with deadline 916. -/
def flight (o : Requester) (op : AccessOp) (a : WordAddr) (r : Region) : Access :=
  { origin := o, op, addr := a, region := r, issueTime := 900, deadline := 916 }

/-- A read request with good address parity, of word 36000, outside the regions. -/
def readReq : Request := { addr := 36000, write := false, lanes := 0, parity := true, data := 0, check := 0 }

/-- A full write of 0x309 to word 32772 with good address parity. -/
def writeReq : Request := { addr := 32772, write := true, lanes := 0xF, parity := true, data := 0x309, check := 0x47 }

/-! ### Well-formedness -/

theorem test_unknown_type_refuses_status_type : (Instr.unknownType 3 0xB1).wellFormed = false := by decide

theorem test_status_refuses_other_type :
    (Instr.status 3 { kind := 0xB2, tagHigh := 0, tagLow := 0, digestHigh := 0, digestLow := 0, flags := 0,
                      capacity := 0, check := 0x4E }).wellFormed = false := by decide

/-! ### Words and messages (05 section 5.1, 10.9, 11.2) -/

theorem test_check_bits_of_example : encodeCheck 0x309 = 0x47 := by decide +kernel

theorem test_single_error_corrected :
    eccDecode 0x109 0x47 = { outcome := .corrected, data := 0x309, check := 0x47 } := by decide +kernel

theorem test_double_error_uncorrectable : (eccDecode 0x300 0x47).outcome = .uncorrectable := by decide +kernel

theorem test_poison_pattern : poisonCheck 0x309 = 0x44 := by decide +kernel

theorem test_frame_message : frameMessage 0x07D1 = [0xA2, 0x07, 0xD1, 0x86] := by decide

theorem test_hello_message : helloMessage 3 16 = [0xA1, 0x03, 0x10, 0x03, 0x49] := by decide

theorem test_digest_move : digestMove 16429 1 2066 301 = 12899 := by decide

/-! ### Single steps of the worked examples -/

/-- 02 section 2.8, step 4: Q1's block holds a queued write, so the candidate stays the queue's head. -/
theorem test_candidate_waits_for_block :
    Port.candidate true
      { Port.reset with queue := [writeOf 32771 1, writeOf 32900 1, writeOf 40000 1],
                        pending := some { op := .read 32800, wait := .waiting 3000 } } = some .queueHead := by decide

/-- 02 section 2.8, step 5: with W1 issued, Q1 passes the older writes of other blocks. -/
theorem test_candidate_passes_queue :
    Port.candidate true
      { Port.reset with queue := [writeOf 32900 1, writeOf 40000 1],
                        pending := some { op := .read 32800, wait := .waiting 3000 } } = some .pendingRequest := by
  decide

/-- 05 section 5.5, step 1: a write with a single-bit data error is accepted corrected. -/
theorem test_request_corrected :
    ((after (.controlRequest .a { writeReq with data := 0x109 }) base).portA.queue,
      ((after (.controlRequest .a { writeReq with data := 0x109 }) base).classState 0).count) =
      ([writeOf 32772 0x309], 1) := by decide +kernel

/-- 02, R23: an odd number of ones among the 28 bits is refused with ACCESS 0x10. -/
theorem test_request_parity :
    ((after (.controlRequest .a { readReq with parity := false }) base).portA.answers,
      ((after (.controlRequest .a { readReq with parity := false }) base).classState 1).pending) =
      ([.fail], true) := by decide

/-- 01 section 1.8, step 2: lane 0 merged into a VERIFIED entry. -/
theorem test_snoop_merges_lane :
    (State.snoop { base with shadow := { crosspoints := [(3, .verified { source := 7, protect := true })], names := [] } }
      { addr := 32771, lanes := 1, data := 0x2C, check := 0, poisoned := false }).crosspointQuality 3 =
      .verified { source := 44, protect := true } := by decide

/-- 01 section 1.8, step 4: a partial write to an UNKNOWN entry puts the word on the re-read list. -/
theorem test_snoop_rereads_unknown :
    (State.snoop base { addr := 32772, lanes := 1, data := 9, check := 0, poisoned := false }).fetch.reread = [32772] := by
  decide

/-- 01 section 1.8, step 5: the re-read of word 32772 establishes source 777. -/
theorem test_read_establishes :
    (after (.readCompletion 0x309 0x47)
      { base with memPort := { base.memPort with
          inflight := [flight .fetch (.read false) 32772 .crosspoint] } }).crosspointQuality 4 =
      .verified (route 777) := by decide +kernel

/-- 04 section 4.10, step 3: a dropped sweep read of an UNVERIFIED word goes on the re-read list. -/
theorem test_dropped_read_rereads :
    (after (.readCompletion 0x309 0x47)
      { base with
          shadow := { crosspoints := [(4, .unverified (route 777))], names := [] }
          memPort := { base.memPort with
            inflight := [flight .fetch (.read true) 32772 .crosspoint] } }).fetch.reread = [32772] := by decide +kernel

/-- 03, the timeout cascade: port B's read is answered FAIL, both region words are on the re-read list in issue order. -/
theorem test_timeout_cascade :
    let t := after .memoryTimeout { base with memPort := { base.memPort with inflight :=
      [flight (.port .a) (.write (writeOf 32771 60) true) 32771 .crosspoint, flight (.port .b) (.read false) 36000 .outside,
        flight .fetch (.read false) 32780 .crosspoint, flight (.port .a) (.write (writeOf 40000 1) true) 40000 .outside] } }
    (t.portB.answers, t.portA.answers, t.fetch.reread, (t.classState 3).count) = ([.fail], [], [32771, 32780], 2) := by
  decide

/-- 03, arbitration with Ls = 2: the third opportunity goes to the fetch read, and the counter returns to 0. -/
theorem test_arbitration_third :
    let t := after .issue { base with
      params := { base.params with ls := 2 }
      fetch := { sweep := .running .crosspoint 32768, reread := [] }
      memPort := { base.memPort with starvation := 2 }
      portA := { Port.reset with queue := [writeOf 40000 1] } }
    (t.memPort.inflight.map fun e => (e.origin, e.addr), t.memPort.starvation, t.fetch.sweep) =
      ([(.fetch, 32768)], 0, .running .crosspoint 32769) := by decide

/-- 06 section 6.9, step 1: a pulse 100 µs early is accepted. -/
theorem test_pulse_accepted :
    let t := after .refinPulse { base with now := 1019900, frame := { base.frame with
      state := .locked, lastSwitch := 1000000, expected := 1020000, count := 50 } }
    (t.frame.count, t.frame.state, t.frame.expected) = (51, .locked, 1039900) := by decide

/-- 06 section 6.9, step 8: the third rejected pulse at the frame spacing re-acquires. -/
theorem test_reacquire :
    let t := after .refinPulse { base with now := 1111000, frame := { base.frame with
      state := .flywheel, lastSwitch := 1099950, expected := 1119950, latest := some 1100106, count := 55,
      candidates := [1071000, 1091000], noise := 2 } }
    (t.frame.count, t.frame.state, t.frame.expected, t.frame.candidates, t.frame.noise, t.mgmt.reference) =
      (56, .locked, 1131000, [], 3, true) := by decide

/-- 06 section 6.9, step 2: the flywheel point at the window's end. -/
theorem test_window_expiry :
    let t := after .windowExpiry { base with now := 1040056, frame := { base.frame with
      state := .locked, lastSwitch := 1019900, expected := 1039900, count := 51 } }
    (t.frame.count, t.frame.state, t.frame.lastSwitch, t.frame.expected, t.mgmt.reference) =
      (52, .flywheel, 1039900, 1059900, true) := by decide

/-- 06 section 6.9: the first free-running switch point. -/
theorem test_free_running :
    let t := after .freeRunningSwitchPoint { base with now := 20000 }
    (t.frame.count, t.frame.expected) = (1, 40000) := by decide

/-- 07 section 7.8, step 5: entry (0, 3) bounces and (0, 4) forms record 1001. -/
theorem test_salvo_with_bounce :
    let t := State.gatherSwitchPoint { base with
      frame := { base.frame with count := 1001 }
      fanout := some { item := 0, position := none }
      shadow := { crosspoints := [(3, .verified (route 7)), (4, .verified (route 12))], names := [] }
      gather := { base.gather with
        dirty := [(.crosspoint (entry 3), .route (route 7)), (.crosspoint (entry 4), .route (route 9))] } }
    (t.gather.takeQueue, t.gather.bounced, t.gather.dirty) =
      ([{ number := 1001, changes := [(.crosspoint (entry 4), .route (route 12))] }], 1, []) := by decide

/-- 12 section 12.7: the ASSIGN transaction of tile (2, 7). -/
theorem test_assign_example :
    let s := { opened (withChan 2 running base) with
      frame := { base.frame with count := 1002 }
      shadow := { crosspoints := [(4, .verified (route 15))], names := [] } }
    let t := after (.assign 2 7 0 4) s
    (((t.chan 2).tile 7).assignment, ((t.chan 2).tile 7).current, ((t.chan 2).tile 7).take, (t.chan 2).queue,
      t.mgmt.spi) =
      (some (entry 4), shows 15, 1002, [{ tile := 7, label := false }],
        .transaction [0x20, 2, 7, 0, 0, 4] (some [0])) := by decide

/-- 12 section 12.7, second variant: tile 71 is out of range. -/
theorem test_assign_out_of_range :
    (after (.assign 2 0x47 0 4) (opened base)).mgmt.spi = .transaction [0x20, 2, 0x47, 0, 0, 4] (some [0x02]) := by
  decide

/-- 12 section 12.7: READ TILE after the ASSIGN. -/
theorem test_read_tile_example :
    let s := opened (withChan 2 ({ running with queue := [{ tile := 7, label := false }] }.setTile 7
      { assignment := some (entry 4), current := shows 15, take := 1002, lastSent := .unassigned }) base)
    (after (.readTile 2 7) s).mgmt.spi = .transaction [0x22, 2, 7]
      (some [0, 1, 0, 0, 4, 1, 0, 0x0F, 0, 0, 0, 0x03, 0xEA, 0, 0, 0, 0, 1, 0]) := by decide

/-- 11 section 11.7, 9,000 µs: a valid STATUS starts a LISTENING channel. -/
theorem test_status_starts_listening :
    let t := after (.status 3 { kind := 0xB1, tagHigh := 0, tagLow := 0, digestHigh := 0, digestLow := 0, flags := 0,
                                capacity := 16, check := 0x3F })
      (withChan 3 { running with state := .listening } base)
    ((t.chan 3).state, (t.chan 3).statusCount, (t.chan 3).returnErrors) = (.starting, 1, 0) := by decide

/-- 09 section 9.9, at 20 µs: the FRAME ends and the NOTICE for tile 1 begins. -/
theorem test_notice_begins :
    let ch := { running with tx := some ended, slots := 2, tc := 8, budget := 2,
                             queue := [{ tile := 1, label := false }, { tile := 3, label := false }] }.setTile 1
      { assignment := some (entry 4), current := shows 15, take := 2001, lastSent := shows 9 }
    let t := after (.messageEnd 4) (withChan 4 ch base)
    ((t.chan 4).queue, (t.chan 4).slots, ((t.chan 4).tile 1).lastSent, (t.chan 4).tx.map (·.endsAt)) =
      ([{ tile := 3, label := false }], 1, shows 15, some 1080) := by decide

/-- 10 section 10.10, k = 80: the debt tick to +8 sets the forced flag. -/
theorem test_debt_reaches_eight :
    let t := after (.debtTick 6) (withChan 6 { running with debt := 7, ticks := 7, interval := 8 } base)
    ((t.chan 6).debt, (t.chan 6).forced, (t.chan 6).ticks) = (8, true, 0) := by decide

/-- 08 section 8.7, step 6: the visit of (5, 1) on a STOPPED channel sets the tile and appends nothing. -/
theorem test_visit_stopped_channel :
    let s := { withChan 5 (Channel.reset.setTile 1
        { assignment := some (entry 4), current := shows 9, take := 1000, lastSent := .unassigned }) base with
      fanout := some { item := 0, position := some 192 }
      gather := { base.gather with
        takeQueue := [{ number := 1001, changes := [(.crosspoint (entry 4), .route (route 12))] }] } }
    let t := after .crosspointVisit s
    (((t.chan 5).tile 1).current, ((t.chan 5).tile 1).take, (t.chan 5).queue, t.gather.takeQueue, t.fanout) =
      (shows 12, 1001, [], [], none) := by decide +kernel

/-- Requests standing presented at a free port B, which no run leaves so (log entry 15). -/
def standing (l : List Request) : State := { base with portB := { Port.reset with presented := l } }

/-- A request standing presented behind a pending one. -/
def waitingBehind : State :=
  { base with portB := { Port.reset with pending := some { op := .read 36001, wait := .issued }, presented := [readReq] } }

/-- 12, R171: commands by their code and argument bytes; an argument byte still to come; a code that is not in the table. -/
theorem test_commands_by_code :
    commandOf none [0x20, 2, 7, 0, 0, 4] = some (.assign 2 7 0 4) ∧
      commandOf (some true) [0x10, 0x00, 0x00, 0x75, 0x30] = some (.setParam 0 0 30000 (some true)) ∧
      commandOf none [0x30, 0x80, 0x01] = some (.startChannels 0x8001) ∧ commandOf none [0x30, 0x80] = none ∧
      commandOf none [0x02] = some .readStatus ∧ commandOf none [0x23] = some (.unknownCommand 0x23) := by decide

/-- 12, R169: two bytes held and the third executes the command; the byte after it shifts one byte of the reply out; MDO is not
driven in an idle port. -/
theorem test_bytes_held_and_shifted :
    let held := after (.unknownCommand 2) (after (.unknownCommand 0x22) (opened base))
    let run := after (.readTile 2 7) held
    (held.mgmt.spi, held.mdo, run.mdo, (after (.unknownCommand 0) run).mgmt.spi, base.mdo) =
      (.transaction [0x22, 2] none, some 0, some 0,
        .transaction [0x22, 2, 7] (some [0, 0, 0, 0, 0, 0, 0, 0, 0, 0, 0, 0, 0, 0, 0, 0, 0, 0]), none) := by decide

/-- 02, R22: the answer to the pending read takes the request that stands presented, in the same event. -/
theorem test_answer_takes_presented :
    let t := after (.readCompletion 0x309 0x47) { waitingBehind with memPort := { base.memPort with
      inflight := [flight (.port .b) (.read false) 36001 .outside] } }
    (t.portB.answers, t.portB.pending, t.portB.presented) =
      ([.data 0x309 0x47], some { op := .read 36000, wait := .waiting 3000 }, []) := by decide +kernel

/-- 11, R168: START CHANNELS of a LISTENING channel and a STATUS at the same time, in either order, leave STARTING; a STATUS
1 µs later makes it RUNNING (log entry 25). -/
theorem test_start_with_status :
    let msg : StatusBytes := { kind := 0xB1, tagHigh := 0, tagLow := 0, digestHigh := 0, digestLow := 0, flags := 0,
                               capacity := 16, check := 0x3F }
    let s := opened (withChan 3 { running with state := .listening } base)
    let started := after (.startChannels 8) s
    (((after (.status 3 msg) started).chan 3).state, ((after (.startChannels 8) (after (.status 3 msg) s)).chan 3).state,
      ((after (.status 3 msg) { started with now := 1001 }).chan 3).state) = (.starting, .starting, .running) := by decide

/-- 11, R153: TXINV set during a message leaves the line's polarity as it is until the next message begins, though the message
ends and other options are stored before that. -/
theorem test_txinv_waits_for_message :
    let s := after (.setParam 19 3 0x05 none) (opened (withChan 3 { running with tx := some { ended with endsAt := 1010 } } base))
    let t := after (.messageEnd 3) { s with now := 1010 }
    let u := after (.setParam 19 3 0x0D none) (opened t)
    ((s.chan 3).txInverted, t.txIdleMark 3, u.txIdleMark 3, (((u.chan 3).beginFrame 1010 7).txInverted)) =
      (false, true, true, true) := by decide

/-- 11, R153: the ten levels of a byte on an inverted line, and the park level of a stopped channel under TXINV. -/
theorem test_transmit_levels :
    let line : Channel := { running with tx := some { bytes := [0xA2], endsAt := 1010 } }
    (State.txLevels (withChan 3 line base) 3, State.txLevels (withChan 3 { line with txInverted := true } base) 3,
      State.txLevels (withChan 3 { Channel.reset with options := 0x05, txInverted := true } base) 3) =
      ([false, false, true, false, false, false, true, false, true, true],
        [true, true, false, true, true, true, false, true, false, false], [true]) := by decide

/-- 11, R154: a change of RXINV that brings the line to mark ends the wait that a framing error began; a line found at space as
RSTN rises is waited for. -/
theorem test_rxinv_looks_at_line :
    let broken := after (.framingError 3) (opened (withChan 3 running base))
    ((broken.chan 3).rxAwaitMark, ((after (.setParam 19 3 0x06 none) broken).chan 3).rxAwaitMark,
      ((after (.rstnRise (foundAt pins)) State.reset).chan 0).rxAwaitMark,
      ((after (.rstnRise (foundAt pins)) State.reset).chan 1).rxAwaitMark) = (true, false, true, false) := by decide

/-! ### Witnesses: hypotheses met together, clause by clause -/

theorem witness_StepRunsFrontCommand : ({ base with pending := [.issue, .softReset] } : State).pending = .issue :: [.softReset] :=
  rfl

/-- RSTN low; one request, and two, presented at port B alone; a message that has ended; nothing due. -/
theorem witness_EmptyQueueStep :
    (State.reset.pending = [] ∧ State.reset.up = false) ∧
    (base.pending = [] ∧ (base.up = true ∧ (standing [readReq]).presentedDue .a = false ∧
        (standing [readReq]).portB.presented = readReq :: [] ∧ (standing [readReq]).portB.pending = none) ∧
      (standing [readReq, writeReq]).portB.presented = readReq :: [writeReq]) ∧
    (withChan 3 { running with tx := some ended } base).dueCommand = some (.messageEnd 3) ∧
    (base.up = true ∧ base.presentedDue .a = false ∧ base.presentedDue .b = false ∧ base.dueCommand = none) := by decide

theorem witness_HeldInResetNothingActs : State.reset.device = .inReset ∧ ∀ p, Instr.loanRequest ≠ .rstnRise p := by
  constructor
  · rfl
  · intro p h; cases h

theorem witness_RstnFallResetsThePart : base.up = true := by decide

/-- The first and the last channel; LOANREQ low and high; BIST = 1; bases that differ and bases that are equal. -/
theorem witness_RiseStartsThePart :
    0 < 16 ∧ 15 < 16 ∧ (0x8000#16).getLsbD 15 = true ∧ (0x8000#16).getLsbD 0 = false ∧ State.reset.device = .inReset ∧ State.reset.loanReq = false ∧
      ({ State.reset with loanReq := true } : State).loanReq = true ∧ (foundAt { pins with bist := true }).straps.bist = true ∧
      ((foundAt pins).straps.bist = false ∧ (foundAt pins).straps.xbase ≠ (foundAt pins).straps.nbase) ∧
      ((foundAt { pins with nbase := 2 }).straps.bist = false ∧
        (foundAt { pins with nbase := 2 }).straps.xbase = (foundAt { pins with nbase := 2 }).straps.nbase) := by
  decide

/-- 04, R54 and R58: LOANREQ found asserted beside equal bases leaves the part HALTED, the loan granted and the sweep at its
first word. -/
theorem test_rise_with_loan_and_overlap :
    let t := after (.rstnRise (foundAt { pins with nbase := 2 })) { State.reset with loanReq := true }
    (t.device, t.loan, t.fetch.sweep, (t.classState 4).count, (t.classState 5).capture.map (·.kind)) =
      (.halted, .granted, .running .crosspoint 32768, 1, some .regionOverlap) := by decide

theorem witness_SelftestEnds :
    ({ base with device := .selftest } : State).device = .selftest ∧ base.straps.xbase ≠ base.straps.nbase ∧
      ({ base with straps := { pins with nbase := 2 } } : State).straps.xbase =
        ({ base with straps := { pins with nbase := 2 } } : State).straps.nbase := by decide

/-- A read taken; a request behind a pending one; a parity failure; a lane failure; an answer that leaves nothing to take, and
one that leaves a request. -/
theorem witness_RequestTakenRefusedOrKept :
    (base.up = true ∧ (base.port .a).Free ∧ base.ParityPasses readReq ∧ readReq.write = false) ∧
    (({ base with portA := { Port.reset with pending := some { op := .read 36000, wait := .issued } } } : State).port
      .a).pending = some { op := .read 36000, wait := .issued } ∧
    (base.straps.aparen = true ∧ { readReq with parity := false }.parityOdd = true) ∧
    (base.ParityPasses { writeReq with lanes := 3 } ∧ base.straps.eccen = true ∧ { writeReq with lanes := 3 }.write = true ∧
      { writeReq with lanes := 3 }.lanes ≠ 0xF#4) ∧
    (∀ p, (base.port p).pending = none ∨ (base.port p).pending ≠ none ∨ (base.port p).presented = []) ∧
    ((waitingBehind.port .b).pending ≠ none ∧ ((standing [readReq]).port .b).pending = none ∧
      ((standing [readReq]).port .b).presented = [readReq] ∧ (waitingBehind.port .a).pending = none) := by
  refine ⟨by decide, by decide, by decide, by decide, ?_, by decide⟩
  intro p
  cases p <;> exact .inl rfl

/-- Seven writes queued; eight queued; posting off. -/
theorem witness_WriteAccepted :
    (base.up = true ∧ (base.port .a).Free ∧ base.ParityPasses writeReq ∧ writeReq.write = true ∧ writeReq.lanes = 0xF#4 ∧
      (eccDecode writeReq.data writeReq.check).outcome = .clean ∧ base.straps.post = true) ∧
    (({ base with portA := { Port.reset with queue := List.replicate 7 (writeOf 40000 1) } } : State).port .a).queue.length < 8 ∧
    8 ≤ (({ base with portA := { Port.reset with queue := List.replicate 8 (writeOf 40000 1) } } : State).port .a).queue.length ∧
    { pins with post := false }.post = false := by decide +kernel

/-- A single and a double error in the write data; space in the queue, a full queue, and posting off. -/
theorem witness_WriteDecodedAtAcceptance :
    let full : State := { base with portA := { Port.reset with queue := List.replicate 8 (writeOf 40000 1) } }
    (base.up = true ∧ (base.port .a).Free ∧ base.ParityPasses { writeReq with data := 0x109 } ∧
      { writeReq with data := 0x109 }.write = true ∧ base.straps.eccen = true ∧ { writeReq with data := 0x109 }.lanes = 0xF#4) ∧
    ((eccDecode { writeReq with data := 0x109 }.data { writeReq with data := 0x109 }.check).outcome = .corrected ∧
      (eccDecode { writeReq with data := 0x300 }.data { writeReq with data := 0x300 }.check).outcome = .uncorrectable) ∧
    (base.straps.post = true ∧ (base.port .a).queue.length < 8) ∧
    ((full.port .a).Free ∧ 8 ≤ (full.port .a).queue.length ∧
      ({ base with straps := { pins with post := false } } : State).straps.post = false) := by decide +kernel

/-- A timer at its deadline and one short of it, for a read and a write, and an issued request. -/
theorem witness_WaitTimeoutAnswersFail :
    base.up = true ∧
    (({ base with portA := { Port.reset with pending := some { op := .read 36000, wait := .waiting 1000 } } } : State).port
      .a).pending = some { op := .read 36000, wait := .waiting 1000 } ∧ 1000 ≤ base.now ∧
    (({ base with portA := { Port.reset with pending := some { op := .write (writeOf 40000 1), wait := .waiting 1001 } } } :
      State).port .a).pending = some { op := .write (writeOf 40000 1), wait := .waiting 1001 } ∧ base.now < 1001 ∧
    ({ op := .read 36000, wait := .issued } : PendingRequest).wait = .issued := by decide +kernel

/-- Seven and eight queued writes, in and out of the read's block; a waiting write; an issued request. -/
theorem witness_CandidateTable :
    let pt (n : Nat) (x : Option PendingRequest) : Port :=
      { Port.reset with queue := List.replicate n (writeOf 40000 1), pending := x }
    let r : PendingRequest := { op := .read 36000, wait := .waiting 3000 }
    ((pt 0 none).pending = none ∧ (pt 0 none).queue = [] ∧ (pt 1 none).queue ≠ []) ∧
    ((∀ w ∈ (pt 7 (some r)).queue, w.addr.toNat / 64 ≠ (36000 : WordAddr).toNat / 64) ∧ (pt 7 (some r)).queue.length < 8 ∧
      8 ≤ (pt 8 (some r)).queue.length ∧
      ∃ w ∈ (pt 1 (some r)).queue, w.addr.toNat / 64 = (40063 : WordAddr).toNat / 64) ∧
    ((pt 8 (some { op := .write (writeOf 40000 1), wait := .waiting 3000 })).queue ≠ [] ∧
      (pt 0 (some { op := .read 36000, wait := .issued })).pending = some { op := .read 36000, wait := .issued }) := by
  decide +kernel

/-- A fetch read at the limit, two candidates under it, one candidate, the fetch read alone, nothing. -/
theorem witness_ArbiterChoice :
    let fetching : State := { base with fetch := { sweep := .running .crosspoint 32768, reread := [] } }
    let q : Port := { Port.reset with queue := [writeOf 40000 1] }
    (fetching.fetchWaiting = some 32768 ∧ fetching.params.ls < 255 ∧
      ({ fetching with params := { base.params with ls := 0 } } : State).params.ls ≤ fetching.memPort.starvation) ∧
    (fetching.memPort.starvation < fetching.params.ls ∧
      ({ fetching with portA := q, portB := q } : State).candidate .a = some .queueHead ∧
      ({ fetching with portA := q, portB := q } : State).candidate .b = some .queueHead ∧
      fetching.memPort.lastGranted = .b) ∧
    (({ fetching with portA := q } : State).candidate .b = none ∧ ({ fetching with portB := q } : State).candidate .a = none) ∧
    (fetching.candidate .a = none ∧ fetching.candidate .b = none) ∧ base.fetchWaiting = none := by decide

/-- A port read granted; a fetch read granted from the re-read list and at both ends of a pass; no grant; no opportunity. -/
theorem witness_IssueOfRead :
    let reading : State := { base with portA := { Port.reset with pending := some { op := .read 36000, wait := .waiting 3000 } } }
    (reading.Opportunity ∧ reading.arbitrate = some (.port .a .pendingRequest)) ∧
    (({ base with fetch := { sweep := .idle, reread := [32780] } } : State).arbitrate = some (.fetch 32780) ∧
      ({ base with fetch := { sweep := .idle, reread := [32780] } } : State).fetchWaiting = some 32780) ∧
    ({ base with fetch := { sweep := .running .crosspoint 33023, reread := [] } } : State).arbitrate = some (.fetch 33023) ∧
    ({ base with fetch := { sweep := .running .name 51199, reread := [] } } : State).arbitrate = some (.fetch 51199) ∧
    (base.Opportunity ∧ base.arbitrate = none) ∧
    ({ base with loan := .requested } : State).loan ≠ .none ∧
    4 ≤ ({ base with memPort := { base.memPort with
      inflight := List.replicate 4 (flight .fetch (.read false) 32780 .crosspoint) } } : State).memPort.inflight.length := by
  decide

/-- A queued write outside the regions and one of a region word granted, with a write waiting for space and with none; a pending
write of either kind granted with posting off; a read of the written word in flight. -/
theorem witness_IssueOfWrite :
    let full : Port := { Port.reset with queue := List.replicate 8 (writeOf 40000 1),
                                         pending := some { op := .write (writeOf 32771 60), wait := .waiting 3000 } }
    let s : State := { base with portA := full }
    let q : State := { base with
      portA := { Port.reset with queue := [writeOf 32771 60] }
      memPort := { base.memPort with inflight := [flight (.port .b) (.read false) 32771 .crosspoint] } }
    let u (a : WordAddr) : State := { base with
      straps := { pins with post := false }
      portA := { Port.reset with pending := some { op := .write (writeOf a 60), wait := .waiting 3000 } } }
    (s.Opportunity ∧ s.arbitrate = some (.port .a .queueHead) ∧
      (s.port .a).queue = writeOf 40000 1 :: List.replicate 7 (writeOf 40000 1) ∧
      (s.port .a).pending = some { op := .write (writeOf 32771 60), wait := .waiting 3000 } ∧
      Straps.region s.straps (writeOf 40000 1).addr = .outside) ∧
    (q.Opportunity ∧ q.arbitrate = some (.port .a .queueHead) ∧ (q.port .a).queue = writeOf 32771 60 :: [] ∧
      Straps.region q.straps 32771 ≠ .outside ∧ (q.port .a).pending = none) ∧
    ((u 32771).Opportunity ∧ (u 32771).arbitrate = some (.port .a .pendingRequest) ∧
      ((u 32771).port .a).pending = some { op := .write (writeOf 32771 60), wait := .waiting 3000 }) ∧
    ((u 40000).Opportunity ∧ (u 40000).arbitrate = some (.port .a .pendingRequest) ∧
      Straps.region (u 40000).straps 40000 = .outside) := by decide +kernel

/-- The first and the last crosspoint word and a name word; each coverage; each quality of a partial write's entry in either
region; a re-read list with space, one that holds the word, and a full one, with the tracker live and not; a write poisoned and
not. -/
theorem witness_SnoopByCoverage :
    let s : State := { base with shadow := { crosspoints := [(0, .verified (route 7)), (1, .unverified (route 7))],
                                             names := [(0, .verified 0), (1, .unverified 0), (2, .suspect)] } }
    let full : State := { base with fetch := { sweep := .idle, reread := (List.range 16).map (BitVec.ofNat 22) } }
    (base.live = true ∧ Straps.xpOffset base.straps 32768 = some 0 ∧ Straps.xpOffset base.straps 33023 = some 255 ∧
      Straps.nameOffset base.straps 51199 = some 2047 ∧ Straps.nameOffset base.straps 32768 = none ∧
      Straps.xpOffset base.straps 51199 = none) ∧
    ((3#4).getLsbD 0 = true ∧ (3#4).getLsbD 1 = true ∧ (1#4).getLsbD 0 ≠ (1#4).getLsbD 1 ∧
      (12#4).getLsbD 0 = false ∧ (12#4).getLsbD 1 = false ∧ 1#4 ≠ 0xF#4 ∧ 1#4 ≠ 0#4) ∧
    (s.crosspointQuality 0 = .verified (route 7) ∧ s.crosspointQuality 1 = .unverified (route 7) ∧
      base.crosspointQuality 0 = .unknown ∧ s.nameQuality 0 = .verified 0 ∧ s.nameQuality 1 = .unverified 0 ∧
      s.nameQuality 2 = .suspect ∧ s.nameQuality 2047 = .unknown) ∧
    ((32768 : WordAddr) ∉ base.fetch.reread ∧ base.fetch.reread.length < 16 ∧ (15 : WordAddr) ∈ full.fetch.reread ∧
      (16 : WordAddr) ∉ full.fetch.reread ∧ 16 ≤ full.fetch.reread.length ∧ full.live = true ∧
      ({ full with device := .selftest } : State).live = false) ∧
    ((writeOf 32768 1).poisoned = false ∧ { writeOf 32768 1 with poisoned := true }.poisoned = true) := by decide

/-- A read of word 36000 in flight, with clean, corrected and uncorrectable data. -/
theorem witness_PortReadCompletes :
    let s : State := { base with memPort := { base.memPort with
      inflight := [flight (.port .a) (.read false) 36000 .outside] } }
    s.up = true ∧ s.memPort.inflight = flight (.port .a) (.read false) 36000 .outside :: [] ∧ s.loan ≠ .requested ∧
      (eccDecode 0x309 0x47).outcome = .clean ∧ s.straps.eccen = true ∧ (eccDecode 0x109 0x47).outcome = .corrected ∧
      (eccDecode 0x300 0x47).outcome = .uncorrectable := by decide +kernel

/-- A port's read of crosspoint word 33023 in flight, over a VERIFIED entry that differs and one that does not; a fetch read of
name word 51199, its mark set and clear; each decode outcome; the tracker not live. -/
theorem witness_RegionReadActsOnShadow :
    let s (e : Access) : State := { base with
      shadow := { crosspoints := [(255, .verified (route 7))], names := [(2047, .verified 1)] }
      memPort := { base.memPort with inflight := [e] } }
    let r := flight (.port .a) (.read false) 33023 .crosspoint
    let n := flight .fetch (.read true) 51199 .name
    ((s r).live = true ∧ (s r).memPort.inflight = r :: [] ∧ r.region ≠ .outside ∧
      Straps.xpOffset (s r).straps 33023 = some 255 ∧ Straps.nameOffset (s r).straps 33023 = none ∧
      (s r).crosspointQuality 255 = .verified (route 7)) ∧
    ((s n).memPort.inflight = n :: [] ∧ n.op = .read true ∧ n.region ≠ .outside ∧
      Straps.nameOffset (s n).straps 51199 = some 2047 ∧ Straps.xpOffset (s n).straps 51199 = none ∧
      (s n).nameQuality 2047 = .verified 1) ∧
    ((decodeWord true 0x309 0x47).outcome = .clean ∧ route 7 ≠ routeOf (decodeWord true 0x309 0x47).data ∧
      route 7 = routeOf (decodeWord true 7 (encodeCheck 7)).data ∧ (decodeWord true 0x109 0x47).outcome = .corrected ∧
      (decodeWord true 0x300 0x47).outcome = .uncorrectable ∧ base.straps.eccen = true) ∧
    ({ s r with device := .selftest } : State).live = false := by decide +kernel

/-- A stale fetch read in flight with the sweep ENDING, over each quality. -/
theorem witness_FetchReadFinishes :
    let s : State := { base with
      shadow := { crosspoints := [(4, .unverified (route 7)), (5, .suspect), (6, .verified (route 7))], names := [] }
      fetch := { sweep := .ending, reread := [] }
      memPort := { base.memPort with inflight := [flight .fetch (.read true) 32772 .crosspoint] } }
    s.up = true ∧ s.memPort.inflight = flight .fetch (.read true) 32772 .crosspoint :: [] ∧ s.loan ≠ .requested ∧
      s.fetch.reread.length < 16 ∧ Straps.xpOffset s.straps 32772 = some 4 ∧ Straps.nameOffset s.straps 32772 = none ∧
      s.crosspointQuality 4 = .unverified (route 7) ∧ s.crosspointQuality 5 = .suspect ∧
      s.crosspointQuality 6 = .verified (route 7) ∧ s.crosspointQuality 7 = .unknown := by decide

/-- A posted write, a non-posted write and a read, each the oldest in flight. -/
theorem witness_WriteCompletes :
    base.up = true ∧ base.loan ≠ .requested ∧
    (flight (.port .a) (.write (writeOf 32771 60) true) 32771 .crosspoint).op = .write (writeOf 32771 60) true ∧
    (flight (.port .a) (.write (writeOf 32771 60) false) 32771 .crosspoint).origin = .port .a ∧
    (flight (.port .a) (.read false) 36000 .outside).op = .read false ∧
    ({ base with memPort := { base.memPort with
      inflight := [flight (.port .a) (.read false) 36000 .outside] } } : State).memPort.inflight =
      flight (.port .a) (.read false) 36000 .outside :: [] := by decide +kernel

/-- A read and a posted write in flight at the oldest deadline, and one short of it. -/
theorem witness_MemoryTimeoutAbandonsAll :
    let s : State := { base with now := 916, memPort := { base.memPort with inflight :=
      [flight (.port .b) (.read false) 36000 .outside, flight (.port .a) (.write (writeOf 40000 1) true) 40000 .outside] } }
    s.up = true ∧ (flight (.port .b) (.read false) 36000 .outside).deadline ≤ s.now ∧
      ({ s with now := 915 } : State).now < (flight (.port .b) (.read false) 36000 .outside).deadline ∧
      (flight (.port .b) (.read false) 36000 .outside).OwesAnswer .b ∧
      (∀ x ∈ s.memPort.inflight, ¬ x.OwesAnswer .a) := by
  refine ⟨by decide, by decide, by decide, ⟨rfl, .inl ⟨_, rfl⟩⟩, ?_⟩
  simp [flight, Access.OwesAnswer]

/-- Each kind of access, in and outside the regions, with the tracker live and not, the re-read list with space, with the word
and full. -/
theorem witness_AbandonedAccessByKind :
    let full : State := { base with fetch := { sweep := .ending, reread := (List.range 16).map (BitVec.ofNat 22) } }
    base.fetch.reread.length < 16 ∧ base.live = true ∧ ({ base with device := .selftest } : State).live = false ∧
      (flight (.port .a) (.read false) 36000 .outside).origin = .port .a ∧
      (flight .fetch (.read false) 32780 .crosspoint).op = .read false ∧
      (flight (.port .a) (.write (writeOf 40000 1) true) 40000 .outside).region = .outside ∧
      (flight (.port .a) (.write (writeOf 32771 1) false) 32771 .crosspoint).region ≠ .outside ∧
      Straps.xpOffset base.straps 32771 = some 3 ∧ Straps.nameOffset base.straps 49152 = some 0 ∧
      Straps.xpOffset base.straps 32771 ≠ some 4 ∧ Straps.nameOffset base.straps 32771 = none ∧
      (32780 : WordAddr) ∉ full.fetch.reread ∧ 16 ≤ full.fetch.reread.length ∧ (0 : WordAddr) ∈ full.fetch.reread ∧
      full.fetch.sweep = .ending ∧ ({ full with device := .selftest } : State).live = false := by
  decide

/-- Each loan state, with an access in flight and with none; the row of either name. -/
theorem witness_LoanSteps :
    ({ base with loan := .granted, portA := { Port.reset with queue := [writeOf 40000 1] } } : State).loanWant = true ∧
    base.up = true ∧ base.loan = .none ∧ base.memPort.inflight = [] ∧
      ({ base with memPort := { base.memPort with inflight := [flight .fetch (.read false) 32780 .crosspoint] } } :
        State).memPort.inflight ≠ [] ∧
      ({ base with loan := .requested } : State).loan = .requested ∧
      (({ base with loan := .granted } : State).loan = .granted ∧ base.live = true) ∧
      ({ base with device := .selftest, loan := .granted } : State).live = false ∧
      ({ base with loan := .requested } : State).memPort.inflight = [] ∧
      ((Instr.loanEnd = .loanEnd ∨ Instr.loanEnd = .loanWithdrawal) ∧
        (Instr.loanWithdrawal = .loanEnd ∨ Instr.loanWithdrawal = .loanWithdrawal)) := by decide

/-- Each quality; no loan with nothing in flight, and a request that waits for nothing; RESYNC awaited. -/
theorem witness_DowngradeKeepsTrackedValues :
    let s : State := { base with
      shadow := { crosspoints := [(3, .verified (route 7)), (4, .suspect)], names := [(0, .verified 1)] } }
    s.crosspointQuality 3 = .verified (route 7) ∧ (∀ h, s.crosspointQuality 4 ≠ .verified h) ∧
      s.nameQuality 0 = .verified 1 ∧ (∀ h, s.nameQuality 1 ≠ .verified h) ∧ s.up = true ∧ s.loan = .none ∧
      s.memPort.inflight = [] ∧ ({ s with loan := .requested } : State).loan = .requested ∧
      (opened s).Awaits [0x40] ∧ (opened s).device ≠ .selftest := by
  refine ⟨by decide, fun h => ?_, by decide, fun h => ?_, by decide, rfl, rfl, rfl, opened_awaits rfl _ _, by decide⟩
  all_goals intro e; cases e

/-- An empty and a filled class, a device not halted yet, and the part held in reset. -/
theorem witness_FaultRecordInItsClass :
    (base.classState 3).capture = none ∧
      ((base.recordFault .contentMismatch .portA .absent).classState 3).capture =
        some { kind := .contentMismatch, origin := .portA, location := .absent, tag := 0 } ∧
      base.device ≠ .halted ∧ State.reset.device = .inReset ∧
      exec .softReset State.reset = .next State.reset := ⟨by decide, by decide, by decide, rfl, rfl⟩

theorem witness_FreeRunningSwitchPoint :
    let s : State := { base with now := 20000 }
    s.up = true ∧ s.frame.state = .absent ∧ s.frame.expected ≤ s.now ∧ base.now < base.frame.expected ∧
      ({ base with frame := { base.frame with state := .locked } } : State).frame.state ≠ .absent := by decide

/-- A pulse at each end of the window. -/
theorem witness_PulseAccepted :
    let s : State := { base with frame := { base.frame with state := .flywheel } }
    s.up = true ∧ s.frame.state ≠ .absent ∧ s.frame.expected ≤ 19844 + s.frame.halfWidth ∧
      20156 ≤ s.frame.expected + s.frame.halfWidth := by decide

/-- A first pulse in ABSENT; a third at the frame spacing, with the latest switch instant elsewhere and here; LOCKED. -/
theorem witness_PulseRejectedOrReacquired :
    let s : State := { base with now := 60000, frame := { base.frame with candidates := [20000, 40000] } }
    (base.up = true ∧ base.OutsideWindow ∧ ∀ c1 c2, base.joined ≠ [c1, c2, base.now]) ∧
    (s.up = true ∧ s.OutsideWindow ∧ s.frame.state ≠ .locked ∧ s.joined = [20000, 40000, s.now] ∧
      FrameSpaced s.params.p0 20000 40000 ∧ FrameSpaced s.params.p0 40000 s.now ∧ s.frame.latest ≠ some s.now) ∧
    ({ s with frame := { s.frame with latest := some 60000 } } : State).frame.latest = some s.now ∧
    ({ base with frame := { base.frame with state := .locked } } : State).OutsideWindow := by
  refine ⟨⟨by decide, by decide, fun c1 c2 h => ?_⟩, by decide, by decide, by decide⟩
  simp [State.joined, base, State.reset] at h

theorem witness_WindowExpires :
    let s : State := { base with now := 20156, frame := { base.frame with state := .locked } }
    s.up = true ∧ s.frame.state ≠ .absent ∧ s.frame.expected + s.frame.halfWidth ≤ s.now ∧
      ({ s with now := 20155 } : State).now < s.frame.expected + s.frame.halfWidth ∧ base.frame.state = .absent := by decide

/-- The dirty list of 07 section 7.8 with a busy and with an idle engine, a tile watching the entry and none; a list that
bounces whole. -/
theorem witness_GatherCloses :
    let s : State := { base with
      shadow := { crosspoints := [(3, .verified (route 7)), (4, .verified (route 12))], names := [] }
      gather := { base.gather with
        dirty := [(.crosspoint (entry 3), .route (route 7)), (.crosspoint (entry 4), .route (route 9))] } }
    let items : List (Entry × Value) := [(.crosspoint (entry 4), .route (route 12))]
    s.gather.takeQueue.length < 4 ∧
      items = (s.gather.dirty.filter fun p => decide (s.tracked p.1 ≠ p.2)).map (fun p => (p.1, s.tracked p.1)) ∧
      items ≠ [] ∧ ({ s with fanout := some { item := 0, position := none } } : State).fanout.isSome = true ∧
      s.fanout = none ∧ s.gather.takeQueue = [] ∧ (∀ p ∈ items, s.nextVisit p.1 none = none) ∧
      (State.nextVisit (withChan 0 (Channel.reset.setTile 0
        { assignment := some (entry 4), current := shows 9, take := 0, lastSent := .unassigned }) s)
          (.crosspoint (entry 4)) none).isSome = true ∧ items[0]? = some (.crosspoint (entry 4), .route (route 12)) := by
  decide +kernel

theorem witness_DirtyListAndLateTake :
    let s : State := { base with gather := { base.gather with
      dirty := [(.crosspoint (entry 7), .route (route 40))]
      takeQueue := List.replicate 4 { number := 1003, changes := [(.crosspoint (entry 4), .route (route 12))] } } }
    (∀ p ∈ s.gather.dirty, p.1 ≠ .crosspoint (entry 8)) ∧ (∃ p ∈ s.gather.dirty, p.1 = .crosspoint (entry 7)) ∧
      4 ≤ s.gather.takeQueue.length := by decide

/-- The same visits with a second item in the record and with a second record behind it. -/
def visitingOf (items : List (Entry × Value)) (rest : List TakeRecord) (position : Nat) : State :=
  { withChan 0 (((running.setTile 1
      { assignment := some (entry 4), current := shows 9, take := 1000, lastSent := shows 9 }).setTile 2
      { assignment := some (entry 5), current := shows 15, take := 900, lastSent := shows 9 })) base with
    fanout := some { item := 0, position := some position }
    gather := { base.gather with takeQueue := { number := 1001, changes := items } :: rest } }

/-- The crosspoint change of entry (0, d) to source 12; entry (0, 6) has no subscriber. -/
def item (d : Nat) : Entry × Value := (.crosspoint (entry d), .route (route 12))

/-- 08 section 8.7: the visit of (0, 1) with a pair left after it and with none, of an older and of a newer take number. -/
def visiting : State :=
  { withChan 0 (((running.setTile 1
      { assignment := some (entry 4), current := shows 9, take := 1000, lastSent := shows 9 }).setTile 2
      { assignment := some (entry 4), current := shows 15, take := 1002, lastSent := shows 9 })) base with
    fanout := some { item := 0, position := some 0 }
    gather := { base.gather with
      takeQueue := [{ number := 1001, changes := [(.crosspoint (entry 4), .route (route 12))] }] } }

theorem witness_CrosspointVisit :
    (visiting.up = true ∧ visiting.fanout = some { item := 0, position := some 0 } ∧
      visiting.gather.takeQueue = { number := 1001, changes := [(.crosspoint (entry 4), .route (route 12))] } :: [] ∧
      ((visiting.chan 0).tile 1).assignment = some (entry 4) ∧ 0 < 64 * 0 + 1 ∧
      (∀ j, j < 64 * 0 + 1 → (visiting.slotTile j).assignment ≠ some (entry 4)) ∧
      ((visiting.chan 0).tile 1).take.toNat < (1001#32).toNat ∧ (visiting.slotTile 2).assignment = some (entry 4)) ∧
    ((∀ j, j < 64 * 0 + 2 → 1 < j → (visiting.slotTile j).assignment ≠ some (entry 4)) ∧
      (1001#32).toNat ≤ ((visiting.chan 0).tile 2).take.toNat ∧
      (∀ j, j < 1024 → 64 * 0 + 2 < j → (visiting.slotTile j).assignment ≠ some (entry 4))) ∧
    (let items := [item 4, item 6, item 5];
      let u := after .crosspointVisit (visitingOf items [] 0);
      items.drop (0 + 1) = [item 6] ++ item 5 :: [] ∧ u.NoVisit [item 6] ∧
        (u.nextVisit (.crosspoint (entry 5)) none).isSome = true) ∧
    (let idle : TakeRecord := { number := 1002, changes := [item 6] };
      let next : TakeRecord := { number := 1003, changes := [item 6, item 5] };
      let u := after .crosspointVisit (visitingOf [item 4, item 6] [idle, next] 0);
      u.NoVisit ([item 4, item 6].drop (0 + 1)) ∧ (∀ x ∈ [idle], u.NoVisit x.changes) ∧
        next.changes = [item 6] ++ item 5 :: [] ∧ u.NoVisit [item 6] ∧
        (u.nextVisit (.crosspoint (entry 5)) none).isSome = true) := by
  decide +kernel

/-- 07, R103 and 08, R116: the engine goes on to the next item with a visit, past a record with none to the next record, and
is idle where no item and no record left has one. -/
theorem test_visit_moves_on :
    let idle : TakeRecord := { number := 1002, changes := [item 6] }
    let next : TakeRecord := { number := 1003, changes := [item 6, item 5] }
    let place (s : State) : List TakeRecord × Option Fanout := (s.gather.takeQueue, s.fanout)
    (after .crosspointVisit (visitingOf [item 4, item 6, item 5] [] 0)).fanout = some { item := 2, position := none } ∧
    place (after .crosspointVisit (visitingOf [item 4, item 6] [idle, next] 0)) = ([next], some { item := 1, position := none }) ∧
    place (after .crosspointVisit (visitingOf [item 4, item 6] [idle] 0)) = ([], none) := by decide +kernel

theorem witness_NameVisit :
    let s : State := { visiting with gather := { base.gather with
      takeQueue := [{ number := 1001, changes := [(.source 9, .unknown)] }] } }
    s.up = true ∧ s.fanout = some { item := 0, position := some 0 } ∧
      s.gather.takeQueue = { number := 1001, changes := [(.source 9, .unknown)] } :: [] ∧
      ((s.chan 0).tile 1).assignment.isSome = true ∧ ((s.chan 0).tile 1).current = .known (route 9) ∧
      (route 9).source.toNat = 9 ∧ (∀ j, j < 64 * 0 + 1 → 0 < j → s.showsSource 9 j = false) ∧ base.fanout = none ∧
      (State.showsSource (withChan 15 (Channel.reset.setTile 63
        { assignment := some (entry 4), current := shows 9, take := 0, lastSent := .unassigned }) s) 9 1023) = true ∧
    (∀ j, j < 1024 → 64 * 0 + 1 < j → s.showsSource 9 j = false) ∧
    (let idle : TakeRecord := { number := 1002, changes := [item 6] };
      let next : TakeRecord := { number := 1003, changes := [item 5] };
      let u := after .nameChangeVisit (visitingOf [(.source 9, .unknown), item 6, item 5] [] 0);
      let v := after .nameChangeVisit (visitingOf [(.source 9, .unknown), item 6] [idle, next] 0);
      let x := after .nameChangeVisit (visitingOf [(.source 9, .unknown), item 6] [idle] 0);
      (u.NoVisit [item 6] ∧ (u.nextVisit (.crosspoint (entry 5)) none).isSome = true ∧
        u.fanout = some { item := 2, position := none }) ∧
      (v.NoVisit [item 6] ∧ (v.nextVisit (.crosspoint (entry 5)) none).isSome = true ∧ v.gather.takeQueue = [next]) ∧
      (x.NoVisit [item 6] ∧ x.fanout = none)) := by
  decide +kernel

/-- Each state, with the transmitter free and busy, at the boundary counts. -/
theorem witness_SwitchPointAtChannel :
    Channel.reset.Resting ∧
    ({ running with state := .starting, helloCount := 7 }.helloCount < 8 ∧ 8 ≤ { running with helloCount := 8 }.helloCount) ∧
    { running with state := .lost }.state = .lost ∧ (running.state = .running ∧ running.tx = none) ∧
    { running with tx := some ended }.tx ≠ none ∧
    (running.ticks + 1 < running.interval ∧ { running with ticks := 98 }.ticks + 1 < running.interval ∧
      { running with ticks := 99 }.ticks + 1 = running.interval ∧
      { running with ticks := 99, interval := 8 }.interval < { running with ticks := 99, interval := 8 }.ticks + 1) ∧
    ({ running with hold := true }.heard = false ∧ { running with hold := true }.missing < 3 ∧
      { running with hold := true, tx := some ended }.tx ≠ none) ∧
    ({ running with heard := true }.heard = true ∧ running.heard = false ∧ { running with missing := 2 }.missing < 3 ∧
      { running with missing := 3 }.missing = 3) ∧
    ({ running with hold := true, heldFrames := 14 }.heldFrames < 15 ∧ { running with heldFrames := 15 }.heldFrames = 15 ∧
      { running with heldFrames := 16 }.heldFrames = 16) ∧
    ({ running with debt := 6 }.debt < 7 ∧ { running with debt := 7 }.debt = 7 ∧ { running with debt := 8 }.debt = 8) := by
  decide

theorem witness_SwitchPointPartsAlone :
    base.up = true ∧
    (((withChan 3 { running with missing := 3 } base).chan 3).state = .running ∧
      3 ≤ ((withChan 3 { running with missing := 3 } base).chan 3).missing ∧
      ((withChan 3 { running with missing := 3 } base).chan 3).heard = false) ∧
    ((withChan 3 { running with missing := 2 } base).chan 3).missing < 3 ∧
    ((withChan 3 { running with heard := true, hold := true, heldFrames := 15 } base).chan 3).heldFrames = 15 ∧
    (((withChan 3 { running with hold := true, heldFrames := 15, missing := 2 } base).chan 3).heard = false ∧
      ((withChan 3 { running with hold := true, heldFrames := 15, missing := 2 } base).chan 3).missing < 3 ∧
      3 ≤ ((withChan 3 { running with hold := true, heldFrames := 15, missing := 3 } base).chan 3).missing) ∧
    ((withChan 3 { running with hold := true, heldFrames := 14 } base).chan 3).heldFrames ≠ 15 ∧
    (((withChan 3 { running with state := .starting, helloCount := 8 } base).chan 3).state = .starting ∧
      8 ≤ ((withChan 3 { running with state := .starting, helloCount := 8 } base).chan 3).helloCount) ∧
    ((withChan 3 { running with state := .starting, helloCount := 7 } base).chan 3).helloCount < 8 ∧
    (((withChan 3 { running with ticks := 99, debt := 8 } base).chan 3).interval ≤
      ((withChan 3 { running with ticks := 99, debt := 8 } base).chan 3).ticks + 1) ∧
    ((withChan 3 { running with ticks := 98 } base).chan 3).ticks + 1 <
      ((withChan 3 { running with ticks := 98 } base).chan 3).interval := by decide

/-- A message at its end and one short of it; a FRAME pending, a HELLO pending, neither; a line with RSTN low, parked, idle and
with a message's first byte on it. -/
theorem witness_MessageEnd :
    base.up = true ∧ ended.endsAt ≤ base.now ∧ base.now < { ended with endsAt := 1001 }.endsAt ∧
    ((withChan 3 { running with tx := some ended, framePending := some 7 } base).chan 3).framePending = some 7 ∧
    (((withChan 3 { running with tx := some ended, helloPending := true } base).chan 3).framePending = none ∧
      ((withChan 3 { running with tx := some ended, helloPending := true } base).chan 3).helloPending = true) ∧
    (((withChan 3 { running with tx := some ended } base).chan 3).tx = some ended ∧
      ((withChan 3 { running with tx := some ended } base).chan 3).helloPending = false ∧
      ((withChan 3 { running with tx := some ended } base).chan 3).slots = 0) ∧
    (State.reset.up = false ∧ (base.chan 3).Resting ∧ (base.chan 3).tx = none ∧
      ¬ ((withChan 3 running base).chan 3).Resting ∧ ({ ended with bytes := [0xA2] }.bytes)[0]? = some 0xA2) := by decide

/-- A head that differs, in each kind of state; a head that is equal with its label mark set; each kind of label. -/
theorem witness_ChangeNoticeBegins :
    let ch : Channel := { running with tx := some ended, slots := 1, queue := [{ tile := 63, label := false }] }.setTile 63
      { assignment := some (entry 4), current := shows 15, take := 2001, lastSent := shows 9 }
    let s := withChan 15 ch base
    (s.up = true ∧ (s.chan 15).tx = some ended ∧ ended.endsAt ≤ s.now ∧ (s.chan 15).framePending = none ∧
      (s.chan 15).helloPending = false ∧ (s.chan 15).state = .running ∧ (s.chan 15).hold = false ∧ 1 ≤ (s.chan 15).slots ∧
      (s.chan 15).forced = false ∧ (s.chan 15).queue = { tile := 63, label := false } :: [] ∧
      ((s.chan 15).tile 63).current = .known (route 15) ∧
      ((s.chan 15).tile 63).current ≠ ((s.chan 15).tile 63).lastSent) ∧
    (TileState.unknown ≠ shows 9 ∧ TileState.unassigned ≠ shows 9 ∧ ({ tile := 63, label := true } : Notice).label = true) ∧
    (Straps.sources base.straps ≤ (route 1024).source.toNat ∧ (route 1023).source.toNat < Straps.sources base.straps ∧
      base.onAir (.source 1023) = .unknown) ∧
    ({ base with shadow := { crosspoints := [], names := [(18, .verified 1), (19, .verified 2)] } } : State).onAir (.source 9) =
      .name { first := 1, second := 2 } := by decide

/-- A RUNNING channel that may take a slot decision. -/
def free : Channel := { running with slots := 1 }

/-- An assigned tile whose states are equal. -/
def steady : Tile := { assignment := some (entry 4), current := shows 9, take := 0, lastSent := shows 9 }

/-- A forced refresh at cursor 61, whose first target is tile 63: tile 61 is not assigned and tile 62 is queued. -/
def refreshing : Channel :=
  ({ free with forced := true, cursor := some 61, queue := [{ tile := 62, label := false }] }.setTile 63 steady).setTile 62 steady

/-- A forced refresh with no tile left to send, the last one being queued. -/
def refreshOver : Channel :=
  { free with forced := true, cursor := some 63, debt := 8, queue := [{ tile := 63, label := true }] }.setTile 63 steady

/-- Two tiles queued, the first with equal states. -/
def twoQueued : Channel :=
  { free with queue := [{ tile := 5, label := false }, { tile := 63, label := false }] }.setTile 5 steady

/-- A forced refresh with a target past its cursor; one with none, with a notice queued and the debt high; a head that differs and
an equal one, each before another; no refresh to make and no head; a refresh pulled in, and none left to pull in. -/
theorem witness_SlotPrecedence :
    (∀ y, (base.label y).length = 8) ∧
    (let s := withChan 3 { free with tx := some ended } base;
      s.up = true ∧ (s.chan 3).tx = some ended ∧ ended.endsAt ≤ s.now ∧ (s.chan 3).framePending = none ∧
        (s.chan 3).helloPending = false) ∧
    (free.state = .running ∧ free.hold = false ∧ ¬ free.NoSlot) ∧
    (¬ refreshing.NoSlot ∧ refreshing.forced = true ∧ refreshing.cursor.getD 0 ≤ 63 ∧ 63 < refreshing.tc ∧
      (refreshing.tile 63).assignment.isSome = true ∧ (∀ n ∈ refreshing.queue, n.tile ≠ 63) ∧
      ∀ j, j < 63 → refreshing.cursor.getD 0 ≤ j →
        (refreshing.tile j).assignment = none ∨ ∃ n ∈ refreshing.queue, n.tile = j) ∧
    (¬ refreshOver.NoSlot ∧ refreshOver.forced = true ∧ refreshOver.RefreshDone) ∧
    (¬ twoQueued.NoSlot ∧ twoQueued.forced = false ∧
      twoQueued.queue = { tile := 5, label := false } :: [{ tile := 63, label := false }] ∧
      (twoQueued.tile 5).current = (twoQueued.tile 5).lastSent ∧
      ((twoQueued.setTile 5 { steady with current := shows 10 }).tile 5).current ≠
        ((twoQueued.setTile 5 { steady with current := shows 10 }).tile 5).lastSent ∧
      ({ tile := 5, label := true } : Notice).label = true) ∧
    (free.forced = false ∧ free.cursor = none ∧ free.debt ≤ 0 ∧ free.pullin = false ∧ free.queue = []) ∧
    ({ free with options := 0x14 }.pullin = true ∧ -8 < free.debt ∧ (∀ j, j < free.tc → (free.tile j).assignment = none) ∧
      { free with debt := -8 }.debt = -8) := by
  refine ⟨?_, by decide, by decide, by decide, by decide, by decide, by decide, by decide⟩
  intro x
  have h : ∀ y, base.onAir (.source y) = .unknown := fun _ => rfl
  cases x with
  | unassigned => rfl
  | unknown => rfl
  | known r =>
    simp only [State.label, h]
    split <;> rfl

/-- A good and a bad check byte; each channel state; a snapshot of the tag that matches, differs, is not comparable, and
none. -/
theorem witness_StatusByChannelState :
    let g : StatusBytes := { kind := 0xB1, tagHigh := 0, tagLow := 5, digestHigh := 0, digestLow := 9, flags := 0,
                             capacity := 16, check := 0x31 }
    let ch : Channel := { running with tx := some ended, mismatch := 1, snapshots :=
      [{ tag := 5, digest := 9, comparable := true }] }
    let s := withChan 3 ch base
    (s.up = true ∧ (s.chan 3).rx = .idle ∧ (s.chan 3).rxAwaitMark = false ∧ g.kind = 0xB1) ∧
    g.kind + g.tagHigh + g.tagLow + g.digestHigh + g.digestLow + g.flags + g.capacity + g.check = 0 ∧
    g.kind + g.tagHigh + g.tagLow + g.digestHigh + g.digestLow + g.flags + g.capacity + 0x32 ≠ 0 ∧
    ((s.chan 3).state = .running ∧ (s.chan 3).NoSlot ∧
      (s.chan 3).snapshots.find? (fun y => y.tag == 5#16) = some { tag := 5, digest := 9, comparable := true } ∧
      9 = (9#16).toNat ∧ 8 ≠ (9#16).toNat ∧ (s.chan 3).mismatch = 1 ∧ running.mismatch = 0 ∧
      (∀ x ∈ (s.chan 3).snapshots, x.tag ≠ 6)) ∧
    ({ tag := 5, digest := 9, comparable := false } : Snapshot).comparable = false ∧
    ({ running with state := .starting, startedAt := some 1000 }.startedAt = some base.now ∧
      { running with state := .starting }.startedAt ≠ some base.now ∧ { running with hold := true }.hold = true) ∧
    (Channel.reset.state = .stopped ∧ { running with state := .listening }.state = .listening ∧
      { running with state := .starting }.NoSlot ∧ { running with state := .lost }.NoSlot) := by decide

/-- The gap's end and one short of it; a byte at the gap's edge and one past it; each receiver state; seven bytes of a STATUS and
its check byte. -/
theorem witness_ReturnLineBytes :
    base.up = true ∧ (950 + 50 ≤ base.now ∧ base.now < 951 + 50 ∧ base.now ≤ 945 + 55) ∧
    ((withChan 3 { running with rx := .assembling [0xB1] 950 } base).chan 3).rx = .assembling [0xB1] 950 ∧
    ((withChan 3 running base).chan 3).rx = .idle ∧ ((withChan 3 running base).chan 3).rxAwaitMark = false ∧
    ((withChan 3 { running with rxWire := false } base).chan 3).rxAwaitMark = true ∧ ((0x55 : Byte) ≠ 0xB1) ∧
    (List.replicate 6 (0xB1 : Byte)).length < 7 ∧ (List.replicate 7 (0xB1 : Byte)).length = 7 ∧
    (List.replicate 7 (0xB1 : Byte) ++ [0]).foldl (· + ·) 0 ≠ 0 ∧ 944 + 55 < base.now ∧
    ((0xB1 : Byte) + 0 + 5 + 0 + 9 + 0 + 16 + 0x31 = 0 ∧
      ((withChan 3 { running with rx := .assembling [0xB1, 0, 5, 0, 9, 0, 16] 945 } base).chan 3).rx =
        .assembling [0xB1, 0, 5, 0, 9, 0, 16] 945) := by decide

/-- 11, R156 and R157: the eighth byte of a valid STATUS counts it; a byte 56 µs after the one before begins anew. -/
theorem test_return_bytes :
    let s := withChan 3 { running with rx := .assembling [0xB1, 0, 5, 0, 9, 0, 16] 945 } base
    (((after (.returnByte 3 0x31) s).chan 3).statusCount, ((after (.returnByte 3 0x31) s).chan 3).rx,
      ((after (.returnByte 3 0xB1) { s with now := 1001 }).chan 3).rx,
      ((after (.returnByte 3 0xB1) { s with now := 1001 }).chan 3).returnErrors) =
      (1, .idle, .assembling [0xB1] 1001, 1) := by decide

/-- The port idle; a byte held, and one that leaves the command still short; a command executed, with a byte to shift out and
with none; the bytes of a command all but the last held. -/
theorem witness_TransactionFrame :
    (base.up = true ∧ base.mgmt.spi = .idle ∧ (opened base).mgmt.spi ≠ .idle) ∧
    ((holding [0x22] base).mgmt.spi = .transaction [0x22] none ∧ commandOf none ([0x22] ++ [2]) = none) ∧
    (answered [0x40] [0] base).mgmt.spi = .transaction [0x40] (some [0]) ∧
    (answered [0x40] [] base).mgmt.spi = .transaction [0x40] (some []) ∧
    ((Instr.readTile 2 7).bytes = some [0x22, 2, 7] ∧ (Instr.unknownCommand 0x23).bytes = some [0x23] ∧ 2 < 3) ∧
    (holding [0x22, 2] base).Awaits [0x22, 2, 7] :=
  ⟨by decide, by decide, rfl, rfl, by decide, rfl, [0x22, 2], rfl, by decide, by decide⟩

/-- Each read awaited; the numbers at the edges of their ranges; classes with and without a record; a shadow within its regions,
in canonical form; tiles and channels with and without each optional item; a byte held that begins another command. -/
theorem witness_ReadsReplyAndChangeNothing :
    ((opened base).Awaits [0x01] ∧ (opened base).Awaits [0x02] ∧ (opened base).Awaits [0x03, 5] ∧
      (opened base).Awaits [0x11, 3, 0] ∧ (opened base).Awaits [0x22, 15, 63] ∧ (opened base).Awaits [0x32, 15] ∧
      (opened base).Awaits [0x23] ∧ (holding [0x22] base).Awaits [0x22, 15, 63]) ∧
    ((opened base).device = .operating ∧ (opened base).Canonical ∧ (opened base).ShadowInRegions ∧
      (opened base).frame.state = .absent ∧ (opened base).loan = .none ∧ (opened base).fetch.sweep = .idle) ∧
    (5 < (6 : Byte).toNat ∧ (5 : Byte).toNat ≤ 5 ∧ ((opened base).classState 5).capture = none ∧
      ((opened (base.recordFault .contentMismatch .portA .absent)).classState 3).capture =
        some { kind := .contentMismatch, origin := .portA, location := .absent, tag := 0 }) ∧
    (paramOf 4 = none ∧ paramOf 16 = some .tc ∧ 15 < (16 : Byte).toNat ∧ (15 : Byte).toNat ≤ 15 ∧
      paramOf 3 = some .ta ∧ Param.ta.perChannel = false ∧ 63 < (64 : Byte).toNat ∧ (63 : Byte).toNat ≤ 63 ∧
      argumentBytes 0x23 = none) ∧
    ((base.chan 15).tile 63).assignment = none ∧ (base.chan 15).cursor = none ∧ (base.chan 15).lastStatus = none ∧
    ((holding [0x22] base).mgmt.spi = .transaction [0x22] none ∧ Instr.identify.bytes = some [0x01] ∧
      (∀ code, Instr.identify ≠ .unknownCommand code) ∧ ¬ [0x22] <+: [(0x01 : Byte)]) := by
  have region : (opened base).ShadowInRegions := ⟨fun _ _ => rfl, fun _ _ => rfl⟩
  refine ⟨⟨opened_awaits rfl _ _, opened_awaits rfl _ _, opened_awaits rfl _ _, opened_awaits rfl _ _,
    opened_awaits rfl _ _, opened_awaits rfl _ _, opened_awaits rfl _ _, rfl, [0x22], rfl, by decide, by decide⟩,
    ⟨rfl, by decide, region, rfl, rfl, rfl⟩, by decide, by decide, by decide, by decide, by decide,
    by decide, rfl, fun _ => by simp, by decide⟩

theorem witness_ClearEventsClearsMaskedClasses :
    (opened base).Awaits [0x04, 0x01] ∧ (0x01 : Byte).getLsbD 0 = true ∧ (0x01 : Byte).getLsbD 5 = false ∧
      (0x01 : Byte).getLsbD FaultKind.readCorrected.cls.number = true :=
  ⟨opened_awaits rfl _ _, by decide, by decide, by decide⟩

theorem witness_IrqMaskAndMirq :
    (opened base).Awaits [0x05, 0x80] ∧ base.up = true ∧
      ({ base with mgmt := { base.mgmt with sweep := true, irqMask := 0x80 } } : State).mirqLow = true :=
  ⟨opened_awaits rfl _ _, by decide, by decide⟩

/-- An unknown number; a channel above 15; each parameter number; a Tc that an assigned tile blocks and one it does not; a
changed RXINV with a byte in reception, with none and in a receiver that waits for mark, and an unchanged one. -/
theorem witness_SetParamStores :
    let s := opened (withChan 15 (running.setTile 7
      { assignment := some (entry 4), current := shows 9, take := 0, lastSent := .unassigned }) base)
    s.Awaits ([0x10, 19, 15] ++ bytes2 2) ∧ paramOf 20 = none ∧ 15 < (16 : Byte).toNat ∧ (15 : Byte).toNat ≤ 15 ∧
      ((s.chan 15).tile 7).assignment.isSome = true ∧
      (∀ t, t < 64 → 8 ≤ t → ((s.chan 15).tile t).assignment = none) ∧
      (s.chan 15).rxAwaitMark = false ∧ { running with rxWire := false }.rxAwaitMark = true ∧
      (0x02#16).getLsbD 1 ≠ (s.chan 15).rxinv ∧ (0x04#16).getLsbD 1 = (s.chan 15).rxinv :=
  ⟨opened_awaits rfl _ _, by decide, by decide, by decide, by decide, by decide, by decide, by decide, by decide, by decide⟩

/-- The last channel and tile that may be assigned; each number one past its range; OPERATING and HALTED; an append with no
slot, with a slot and a free transmitter, and off the air. -/
theorem witness_AssignTakesOnAirValue :
    (opened base).Awaits ([0x20, 15, 63, 0] ++ bytes2 255) ∧
      (15 : Byte).toNat ≤ 15 ∧ (63 : Byte).toNat < ((opened base).chan (15 : Byte).toNat).tc ∧
      (0 : Byte).toNat < Straps.levels (opened base).straps ∧ (255#16).toNat < Straps.dests (opened base).straps ∧
      (opened base).device ≠ .halted ∧ (opened { base with device := .halted }).device = .halted ∧
      ((opened base).chan (15 : Byte).toNat).tc ≤ (64 : Byte).toNat ∧ 15 < (16 : Byte).toNat ∧
      Straps.levels (opened base).straps ≤ (1 : Byte).toNat ∧ Straps.dests (opened base).straps ≤ (256#16).toNat ∧
      (running.NoSlot ∧ ¬ { running with slots := 1 }.NoSlot ∧ Channel.reset.state ≠ .running) :=
  ⟨opened_awaits rfl _ _, by decide, by decide, by decide, by decide, by decide, by decide, by decide, by decide,
    by decide, by decide, by decide⟩

theorem witness_UnassignFreesTheSlot :
    (opened base).Awaits [0x21, 15, 63] ∧ 15 < (16 : Byte).toNat ∧
      ((opened base).chan (15 : Byte).toNat).tc ≤ (64 : Byte).toNat ∧
      (15 : Byte).toNat ≤ 15 ∧ (63 : Byte).toNat < ((opened base).chan (15 : Byte).toNat).tc ∧
      (((opened base).chan (15 : Byte).toNat).tile (63 : Byte).toNat).assignment = none ∧
      (((opened (withChan 15 (running.setTile 63
        { assignment := some (entry 4), current := shows 9, take := 0, lastSent := .unassigned }) base)).chan
          (15 : Byte).toNat).tile (63 : Byte).toNat).assignment = some (entry 4) :=
  ⟨opened_awaits rfl _ _, by decide, by decide, by decide, by decide, by decide, by decide⟩

theorem witness_StartChannels :
    (opened base).Awaits ([0x30] ++ bytes2 0x8000) ∧ (opened { base with device := .halted }).device = .halted ∧
      (opened base).device ≠ .halted ∧
      (0x8000#16).getLsbD 15 = true ∧ (0x8000#16).getLsbD 14 = false ∧ ((opened base).chan 15).Resting ∧
      { running with state := .listening }.Resting ∧
      ¬ ((opened (withChan 15 running base)).chan 15).Resting ∧ ((opened base).chan 15).QuietOffAir :=
  ⟨opened_awaits rfl _ _, by decide, by decide, by decide, by decide, by decide, by decide, by decide, by decide⟩

theorem witness_StopChannels :
    (opened base).Awaits ([0x31] ++ bytes2 0x8000) ∧ (0x8000#16).getLsbD 15 = true ∧ (0x8000#16).getLsbD 0 = false :=
  ⟨opened_awaits rfl _ _, by decide, by decide⟩

theorem witness_ResyncDowngradesAndRestarts :
    (opened base).Awaits [0x40] ∧ (opened base).device = .operating ∧
      (opened { base with device := .selftest }).Awaits [0x40] ∧ (opened { base with device := .halted }).Awaits [0x40] :=
  ⟨opened_awaits rfl _ _, rfl, opened_awaits rfl _ _, opened_awaits rfl _ _⟩

theorem witness_SoftResetClearsAndKeeps :
    (opened base).Awaits [0x7E] ∧ (opened base).device = .operating ∧
      (opened { base with device := .selftest }).Awaits [0x7E] :=
  ⟨opened_awaits rfl _ _, rfl, opened_awaits rfl _ _⟩

/-- The first and the last of the 39 bits. -/
theorem witness_CheckCodeCorrectsAndDetects : 0 < 39 ∧ 38 < 39 ∧ 0 ≠ 38 := by decide

theorem witness_FaultClassesStayConsistent : base.FaultsConsistent ∧ step base = .next base.tick := ⟨by decide, rfl⟩

theorem witness_FaultsStandUntilCleared :
    let s := base.recordFault .contentMismatch .portA .absent
    3 < 6 ∧ exec .loanRequest s = .next (after .loanRequest s) ∧ s.FaultsConsistent ∧
      (s.classState 3).capture = some { kind := .contentMismatch, origin := .portA, location := .absent, tag := 0 } ∧
      (0x01 : Byte).getLsbD 3 = false := ⟨by decide, rfl, by decide, by decide, by decide⟩

theorem witness_StoresStaySound :
    step base = .next base.tick ∧ base.BusSound ∧ base.QueuesWithinDepth ∧ base.FetchSound ∧ base.TakesSound ∧
      base.Canonical ∧ base.RequestsInTurn ∧ base.ShadowInRegions := by
  refine ⟨rfl, by decide, by decide, by decide, by decide, by decide, ?_, fun _ _ => rfl, fun _ _ => rfl⟩
  intro p _
  cases p <;> rfl

theorem witness_DigestStaysTheSum : base.DigestsSound ∧ step base = .next base.tick := ⟨by decide +kernel, rfl⟩

theorem witness_ChannelsStaySound :
    step base = .next base.tick ∧ ({ base with device := .halted } : State).HaltedRests ∧ base.CountsInRange ∧
      base.QuietOffAir := ⟨rfl, by decide, by decide, fun _ _ => (by decide : Channel.reset.QuietOffAir)⟩

theorem witness_OnAirMovesOnlyAtSwitchPoints :
    let s : State := { base with memPort := { base.memPort with inflight := [flight .fetch (.read false) 32772 .crosspoint] } }
    exec (.readCompletion 0x309 0x47) s = .next (after (.readCompletion 0x309 0x47) s) ∧ s.Tracks (.crosspoint (entry 255)) ∧
      s.Tracks (.source 1023) ∧ (after (.readCompletion 0x309 0x47) s).gather.dirty ≠ [] ∧
      (after (.readCompletion 0x309 0x47) s).frame.count = s.frame.count ∧
      (after .refinPulse base).frame.count = base.frame.count := by
  refine ⟨?_, by unfold State.Tracks; decide, by unfold State.Tracks; decide, by decide +kernel, by decide +kernel,
    by decide⟩
  rfl

end Sys2Proof.Tests
end

section
/-! SUPPORT. What every command is made of, said once: channel units replaced, faults recorded, tracker events on one word, the
downgrade of R17, and free changes of the fields that `Instr.free` lists. A condition that each of these keeps is kept by every
command whose free fields the condition does not read. -/

namespace Sys2Proof.Machine

/-- `t` is made from `s` by the part's own updates of its tables, and by any change of the fields `fs`. -/
inductive State.Moves (fs : List Field) : State → State → Prop where
  | off {s t : State} (h : s.Only fs t) : State.Moves fs s t
  | chan (s : State) (c : Nat) (ch : Channel) : State.Moves fs s (s.setChan c ch)
  | chans (s : State) (f : Nat → Channel → Channel) : State.Moves fs s (s.mapChans f)
  | fault (s : State) (k : FaultKind) (o : Origin) (l : Location) : State.Moves fs s (s.recordFault k o l)
  | word (s : State) (a : WordAddr) (f : Quality Route → Quality Route) (g : Quality (BitVec 32) → Quality (BitVec 32)) :
      State.Moves fs s (s.actOnWord a f g)
  | downgrade (s : State) : State.Moves fs s { s with shadow := s.shadow.downgrade }
  | trans {s t u : State} (h : State.Moves fs s t) (g : State.Moves fs t u) : State.Moves fs s u

namespace State.Moves

variable {fs gs : List Field} {s t : State}

theorem refl (s : State) : s.Moves fs s := .off (.refl s)

theorem mono (h : s.Moves fs t) (sub : fs ⊆ gs) : s.Moves gs t := by
  induction h with
  | off h => exact .off (h.mono sub)
  | chan s c ch => exact .chan s c ch
  | chans s f => exact .chans s f
  | fault s k o l => exact .fault s k o l
  | word s a f g => exact .word s a f g
  | downgrade s => exact .downgrade s
  | trans _ _ ih ih' => exact ih.trans ih'

theorem foldl {α : Type} (g : State → α → State) (hg : ∀ (s : State) (x : α), s.Moves fs (g s x)) (l : List α)
    (s : State) : s.Moves fs (l.foldl g s) := by
  induction l generalizing s with
  | nil => exact .refl s
  | cons x l ih => exact (hg s x).trans (ih (g s x))

/-- An event that happens only under a condition. -/
theorem guarded (b : Prop) [Decidable b] (h : s.Moves fs t) : s.Moves fs (if b then t else s) := by
  split
  · exact h
  · exact .refl s

/-- The fields the tables' own updates touch come to the free fields. -/
theorem only (h : s.Moves fs t) : s.Only (fs ++ [.shadow, .gather, .faults, .chans]) t := by
  have own : [Field.shadow, .gather, .faults, .chans] ⊆ fs ++ [.shadow, .gather, .faults, .chans] :=
    List.subset_append_right ..
  induction h with
  | off h => exact h.mono (List.subset_append_left ..)
  | chan s c ch => exact ((s.setChan_only c ch).mono (by decide)).mono own
  | chans s f => exact ((s.mapChans_only f).mono (by decide)).mono own
  | fault s k o l => exact ((s.recordFault_only k o l).mono (by decide)).mono own
  | word s a f g => exact ((s.actOnWord_only a f g).mono (by decide)).mono own
  | downgrade s => exact ((s.setShadow_only _).mono (by decide)).mono own
  | trans _ _ ih ih' => exact ih.trans ih'

end State.Moves

/-! ### Shared operations and ports -/

theorem State.addReread_moves (s : State) (a : WordAddr) : s.Moves [.fetch] (s.addReread a) := by
  unfold State.addReread
  split
  · exact .refl s
  · split
    · exact .off (s.setFetch_only _)
    · exact .trans (.trans (.off (s.setFetch_only _)) (.fault ..)) (.off (State.restartSweep_only _))

theorem State.grantLoan_moves (s : State) : s.Moves [.loan] s.grantLoan :=
  .trans (.trans (.downgrade s) (.off (State.setLoan_only _ _))) (.fault ..)

theorem State.grantIfDrained_moves (s : State) : s.Moves [.loan] s.grantIfDrained := .guarded _ s.grantLoan_moves

theorem State.recordWriteDecode_moves (s : State) (p : PortId) (o : EccOutcome) (a : WordAddr) {fs : List Field} :
    s.Moves fs (s.recordWriteDecode p o a) := by
  unfold State.recordWriteDecode
  split
  · exact .refl s
  · exact .fault ..
  · split <;> exact .fault ..

theorem State.refuseRequest_moves (s : State) (p : PortId) (k : FaultKind) (a : WordAddr) :
    s.Moves [.portA, .portB] (s.refuseRequest p k a) :=
  .trans (.off (s.setPort_only ..)) (.fault ..)

theorem State.takeRequest_moves (s : State) (p : PortId) (r : Request) :
    s.Moves [.portA, .portB] (s.takeRequest p r) := by
  unfold State.takeRequest
  split
  · exact s.refuseRequest_moves ..
  · split
    · exact s.refuseRequest_moves ..
    · split
      · exact (s.recordWriteDecode_moves ..).trans (.off (State.acceptWrite_only ..))
      · exact .off (s.makePending_only ..)

theorem State.presentRequest_moves (s : State) (p : PortId) (r : Request) :
    s.Moves [.portA, .portB] (s.presentRequest p r) := by
  unfold State.presentRequest
  split
  · exact s.takeRequest_moves ..
  · exact .off (s.setPort_only ..)

theorem State.takePresented_moves (s : State) (p : PortId) : s.Moves [.portA, .portB] (s.takePresented p) := by
  unfold State.takePresented
  split
  · exact .refl s
  · exact .trans (.off (s.setPort_only ..)) (.foldl _ (fun s _ => s.presentRequest_moves ..) _ _)

theorem State.settle_moves (s t : State) : t.Moves [.portA, .portB] (s.settle t) :=
  .trans (.guarded _ (t.takePresented_moves _)) (.guarded _ (State.takePresented_moves _ _))

theorem State.expireWait_moves (s : State) (p : PortId) : s.Moves [.portA, .portB] (s.expireWait p) := by
  unfold State.expireWait
  split
  · exact .guarded _ (.trans (.off (s.answerPort_only ..)) (.fault ..))
  · exact .refl s

/-! ### Memory port and loan unit -/

theorem State.snoop_moves (s : State) (w : WriteWord) : s.Moves [.fetch] (s.snoop w) := by
  unfold State.snoop
  dsimp only
  split
  · exact .trans (.word ..) (State.addReread_moves ..)
  · exact .word ..

theorem State.issueWrite_moves (s : State) (p : PortId) (w : WriteWord) (b : Bool) :
    s.Moves [.memPort, .fetch] (s.issueWrite p w b) :=
  .trans (.off (((s.markStale_only _).trans (State.appendAccess_only ..)).mono (by decide)))
    ((State.snoop_moves ..).mono (by decide))

theorem State.issueGrant_moves (s : State) (g : Grant) :
    s.Moves [.portA, .portB, .memPort, .fetch] (s.issueGrant g) := by
  have placed : ∀ (p : PortId) (x : Port), s.Moves [.portA, .portB, .memPort, .fetch] (s.setPort p x) := fun p x =>
    .off ((s.setPort_only p x).mono (by decide))
  unfold State.issueGrant
  split
  · exact .off ((s.takeFetchRead_only.mono (by decide)).trans ((State.issueRead_only ..).mono (by decide)))
  · split
    · exact .refl s
    · dsimp only
      split
      · exact (placed _ _).trans (.off ((State.issueRead_only ..).mono (by decide)))
      · exact (placed _ _).trans ((State.issueWrite_moves ..).mono (by decide))
  · split
    · exact .refl s
    · exact (placed _ _).trans ((State.issueWrite_moves ..).mono (by decide))

theorem State.issue_moves (s : State) : s.Moves [.portA, .portB, .memPort, .fetch] s.issue := by
  unfold State.issue
  split
  · split
    · exact .trans (.off ((s.noteGrant_only _).mono (by decide))) (State.issueGrant_moves ..)
    · exact .refl s
  · exact .refl s

theorem State.trackRead_moves (s : State) (o : Origin) (a : WordAddr) (d : Decoded) {fs : List Field} :
    s.Moves fs (s.trackRead o a d) := by
  unfold State.trackRead
  split
  · exact .word ..
  · dsimp only
    split
    · exact .trans (.word ..) (.fault ..)
    · exact .word ..

theorem State.recordReadDecode_moves (s : State) (e : Access) (o : EccOutcome) {fs : List Field} :
    s.Moves fs (s.recordReadDecode e o) := by
  unfold State.recordReadDecode
  split
  · exact .refl s
  · split <;> exact .fault ..
  · split <;> exact .fault ..

theorem State.deliverRead_moves (s : State) (e : Access) (stale : Bool) (d : Decoded) :
    s.Moves [.portA, .portB, .fetch, .mgmt] (s.deliverRead e stale d) := by
  have finished : s.Moves [.portA, .portB, .fetch, .mgmt] s.finishFetch := .off (s.finishFetch_only.mono (by decide))
  unfold State.deliverRead
  split
  · exact .off ((s.answerPort_only ..).mono (by decide))
  · dsimp only
    split
    · exact finished.trans ((State.addReread_moves ..).mono (by decide))
    · exact finished

theorem State.completeRead_moves (s : State) (e : Access) (stale : Bool) (x : BitVec 32) (c : BitVec 7) :
    s.Moves [.portA, .portB, .fetch, .mgmt] (s.completeRead e stale x c) := by
  unfold State.completeRead
  dsimp only
  refine .trans ?_ (State.deliverRead_moves ..)
  split
  · exact (s.recordReadDecode_moves ..).trans (State.trackRead_moves ..)
  · exact s.recordReadDecode_moves ..

theorem State.readCompletes_moves (s : State) (x : BitVec 32) (c : BitVec 7) :
    s.Moves [.portA, .portB, .memPort, .loan, .fetch, .mgmt] (s.readCompletes x c) := by
  unfold State.readCompletes
  split
  · exact .refl s
  · split
    · exact .trans (.trans (.off ((s.popInflight_only _).mono (by decide)))
        ((State.completeRead_moves ..).mono (by decide))) ((State.grantIfDrained_moves _).mono (by decide))
    · exact .refl s

theorem State.writeCompletes_moves (s : State) : s.Moves [.portA, .portB, .memPort, .loan] s.writeCompletes := by
  have popped : ∀ l, s.Moves [.portA, .portB, .memPort, .loan] (s.popInflight l) := fun l =>
    .off ((s.popInflight_only l).mono (by decide))
  unfold State.writeCompletes
  split
  · exact .refl s
  · split
    · exact .refl s
    · refine .trans ?_ ((State.grantIfDrained_moves _).mono (by decide))
      split
      · split
        · exact popped _
        · exact (popped _).trans (.off ((State.answerPort_only ..).mono (by decide)))
      · exact popped _

theorem State.abandon_moves (s : State) (e : Access) : s.Moves [.portA, .portB, .fetch, .mgmt] (s.abandon e) := by
  have answered : ∀ p, s.Moves [.portA, .portB, .fetch, .mgmt] (s.answerPort p .fail) := fun p =>
    .off ((s.answerPort_only ..).mono (by decide))
  have listed : ∀ (t : State) a, t.Moves [.portA, .portB, .fetch, .mgmt] (t.addReread a) := fun t a =>
    (t.addReread_moves a).mono (by decide)
  unfold State.abandon
  split
  · exact (answered _).trans (.fault ..)
  · exact .trans (.trans (.off (s.finishFetch_only.mono (by decide))) (.fault ..)) (listed _ _)
  · rename_i posted p _ _
    have h : s.Moves [.portA, .portB, .fetch, .mgmt] (if posted then s else s.answerPort p .fail) := by
      split
      · exact .refl s
      · exact answered p
    dsimp only
    split
    · exact h
    · exact .trans (.trans (.trans h (.word ..)) (.fault ..)) (listed _ _)
  · exact .refl s

theorem State.memoryTimesOut_moves (s : State) :
    s.Moves [.portA, .portB, .memPort, .loan, .fetch, .mgmt] s.memoryTimesOut := by
  unfold State.memoryTimesOut
  split
  · exact .refl s
  · exact .guarded _ (.trans (.trans (.off ((s.popInflight_only _).mono (by decide)))
      (.foldl _ (fun s e => (s.abandon_moves e).mono (by decide)) _ _))
      ((State.grantIfDrained_moves _).mono (by decide)))

theorem State.setLoanReq_only (s : State) (b : Bool) : s.Only [.loanReq] { s with loanReq := b } := by
  constructor
  intro f hf
  cases f <;> first | rfl | exact absurd (by decide) hf

theorem State.loanAsked_moves (s : State) : s.Moves [.loanReq, .loan] s.loanAsked := by
  have raised : s.Moves [.loanReq, .loan] { s with loanReq := true } := .off ((s.setLoanReq_only true).mono (by decide))
  unfold State.loanAsked
  dsimp only
  split
  · exact .trans (raised.trans (.off ((State.setLoan_only _ .requested).mono (by decide))))
      ((State.grantIfDrained_moves _).mono (by decide))
  · exact raised

/-! ### Channels within the part -/

section Channels

variable {fs : List Field}

theorem State.decideSlot_moves (s : State) (c : Nat) : s.Moves fs (s.decideSlot c) := .chan ..

theorem State.enqueue_moves (s : State) (c t : Nat) (b : Bool) : s.Moves fs (s.enqueue c t b) := by
  unfold State.enqueue
  split
  · exact .trans (.chan ..) (State.decideSlot_moves ..)
  · exact .trans (.chan ..) (State.decideSlot_moves ..)
  all_goals exact .refl s

theorem State.channelEvent_moves (s : State) (c : Nat) (r : Channel × List FaultKind) :
    s.Moves fs (s.channelEvent c r) :=
  .trans (.chan ..) (.foldl _ (fun s k => .fault s k _ _) _ _)

theorem State.validStatus_moves (s : State) (c : Nat) (r : StatusRecord) : s.Moves fs (s.validStatus c r) := by
  unfold State.validStatus
  dsimp only
  split
  · exact (s.channelEvent_moves ..).trans (State.decideSlot_moves ..)
  · exact s.channelEvent_moves ..

theorem State.receiveByte_moves (s : State) (c t : Nat) (b : Byte) : s.Moves fs (s.receiveByte c t b) := by
  unfold State.receiveByte
  dsimp only
  split
  · exact .trans (.chan ..) (State.validStatus_moves ..)
  · exact .chan ..

theorem State.receiveMessage_moves (s : State) (c : Nat) (l : List Byte) : s.Moves fs (s.receiveMessage c l) :=
  .foldl _ (fun s _ => s.receiveByte_moves ..) _ s

theorem State.messageEnds_moves (s : State) (c : Nat) : s.Moves fs (s.messageEnds c) := by
  unfold State.messageEnds
  dsimp only
  split
  · exact .chan ..
  · split
    · exact .chan ..
    · exact .trans (.chan ..) (State.decideSlot_moves ..)

theorem State.visitCrosspoint_moves (s : State) (n : BitVec 32) (v : Value) (k : Nat) :
    s.Moves fs (s.visitCrosspoint n v k) := by
  unfold State.visitCrosspoint
  exact .guarded _ (.trans (.chan ..) (State.enqueue_moves ..))

theorem State.runAssign_moves (s : State) (c t l : Byte) (d : BitVec 16) : s.Moves fs (s.runAssign c t l d).1 := by
  unfold State.runAssign State.refuse
  split
  · exact .refl s
  · split
    · exact .refl s
    · exact .trans (.chan ..) (State.enqueue_moves ..)

theorem State.runUnassign_moves (s : State) (c t : Byte) : s.Moves fs (s.runUnassign c t).1 := by
  unfold State.runUnassign State.refuse
  split
  · exact .refl s
  · split
    · exact .refl s
    · exact .trans (.chan ..) (State.enqueue_moves ..)

theorem State.runStart_moves (s : State) (m : BitVec 16) : s.Moves fs (s.runStart m).1 := by
  unfold State.runStart State.refuse
  split
  · exact .refl s
  · exact .chans ..

end Channels

theorem State.crosspointVisit_moves (s : State) : s.Moves [.gather, .fanout] s.crosspointVisit := by
  unfold State.crosspointVisit
  split
  · split
    · exact (s.visitCrosspoint_moves ..).trans (.off (State.advance_only ..))
    · exact .off (s.advance_only _)
  · exact .refl s

theorem State.nameVisit_moves (s : State) : s.Moves [.gather, .fanout] s.nameVisit := by
  unfold State.nameVisit
  split
  · split
    · exact (s.enqueue_moves ..).trans (.off (State.advance_only ..))
    · exact .off (s.advance_only _)
  · exact .refl s

theorem State.setDevice_only (s : State) (d : Device) : s.Only [.device] { s with device := d } := by
  constructor
  intro f hf
  cases f <;> first | rfl | exact absurd (by decide) hf

theorem State.recordHalt_moves (s : State) (k : FaultKind) (l : Location) : s.Moves [.device] (s.recordHalt k l) := by
  unfold State.recordHalt
  dsimp only
  split
  · exact .fault ..
  · exact .trans (.trans (.fault s k .selftest l) (.off (State.setDevice_only _ .halted))) (.chans ..)

theorem State.endStartUp_moves (s : State) (pass : Bool) : s.Moves [.device, .fetch] (s.endStartUp pass) := by
  have halted : ∀ (t : State) k l, t.Moves [.device, .fetch] (t.recordHalt k l) := fun t k l =>
    (t.recordHalt_moves k l).mono (by decide)
  have started : s.Moves [.device, .fetch] { s with device := .operating } :=
    .off ((s.setDevice_only _).mono (by decide))
  unfold State.endStartUp
  dsimp only
  refine .trans ?_ (.off ((State.restartSweep_only _).mono (by decide)))
  split <;> split
  · exact started.trans (halted ..)
  · exact (started.trans (halted ..)).trans (halted ..)
  · exact started
  · exact started.trans (halted ..)

/-! ### The switch point and the frame reference -/

theorem State.gatherSwitchPoint_moves (s : State) : s.Moves [.gather, .fanout] s.gatherSwitchPoint := by
  unfold State.gatherSwitchPoint
  split
  · exact .off s.closeGather_only
  · exact .trans (.off ((s.setGather_only _).mono (by decide))) (.fault ..)

theorem State.switchPoint_moves (s : State) : s.Moves [.frame, .gather, .fanout] s.switchPoint :=
  .trans (.trans (.off ((s.setFrame_only { s.frame with count := s.frame.count + 1 }).mono (by decide)))
    ((State.gatherSwitchPoint_moves _).mono (by decide)))
    (.foldl _ (fun s _ => s.channelEvent_moves ..) _ _)

theorem State.freeRun_moves (s : State) : s.Moves [.frame, .gather, .fanout] s.freeRun :=
  s.switchPoint_moves.trans (.off ((State.setSwitchTime_only ..).mono (by decide)))

theorem State.flywheel_moves (s : State) : s.Moves [.frame, .gather, .fanout, .mgmt] s.flywheel := by
  have timed : ∀ n l r, s.Moves [.frame, .gather, .fanout, .mgmt] (s.switchPoint.setSwitchTime n l r) := fun n l r =>
    (s.switchPoint_moves.mono (by decide)).trans (.off ((State.setSwitchTime_only ..).mono (by decide)))
  unfold State.flywheel
  dsimp only
  split
  · exact (timed ..).trans (.off ((State.raiseReference_only _).mono (by decide)))
  · exact timed ..

theorem State.pulse_moves (s : State) : s.Moves [.frame, .gather, .fanout, .mgmt] s.pulse := by
  have timed : ∀ (t : State) n l r, t.Moves [.frame, .gather, .fanout, .mgmt]
      (t.setSwitchTime n l r).clearCandidates := fun t n l r =>
    .off (((t.setSwitchTime_only n l r).trans (State.clearCandidates_only _)).mono (by decide))
  have raised : ∀ t : State, t.Moves [.frame, .gather, .fanout, .mgmt] t.raiseReference := fun t =>
    .off (t.raiseReference_only.mono (by decide))
  have switched : ∀ t : State, t.Moves [.frame, .gather, .fanout, .mgmt] t.switchPoint := fun t =>
    t.switchPoint_moves.mono (by decide)
  have joined : ∀ x : FrameRef, s.Moves [.frame, .gather, .fanout, .mgmt] { s with frame := x } := fun x =>
    .off ((s.setFrame_only x).mono (by decide))
  unfold State.pulse
  split
  · unfold State.acceptPulse
    dsimp only
    split
    · exact ((switched s).trans (timed ..)).trans (raised _)
    · exact (switched s).trans (timed ..)
  · unfold State.rejectPulse State.reacquire
    dsimp only
    split
    · refine .trans (.trans ?_ (timed ..)) (raised _)
      split
      · exact joined _
      · exact (joined _).trans (switched _)
    · exact joined _

/-! ### Management port and start-up -/

theorem State.runSetParam_moves (s : State) (n c : Byte) (v : BitVec 16) (b : Option Bool) :
    s.Moves [.params] (s.runSetParam n c v b).1 := by
  have stored : ∀ p k, s.Moves [.params] (s.storeParam p c.toNat k b) := by
    intro p k
    cases p
    case p0 | ls | tm | ta => exact .off (s.setParams_only _)
    case tc | budget | interval | options => exact .chan ..
  unfold State.runSetParam State.refuse
  split
  · exact .refl s
  · split
    · exact .refl s
    · dsimp only
      split
      · exact .refl s
      · exact stored ..

theorem State.runResync_moves (s : State) : s.Moves [.fetch] s.runResync.1 := by
  unfold State.runResync State.refuse
  split
  · exact .refl s
  · exact .trans (.downgrade s) (.off (State.restartSweep_only _))

/-- The bytes of a command add the management port to what its effect moves. -/
theorem State.runCommand_moves (s : State) (l : List Byte) (run : State → State × List Byte) {fs : List Field}
    (hm : Field.mgmt ∈ fs) (h : s.Moves fs (run s).1) : s.Moves fs (s.runCommand l run) := by
  have port : ∀ (t : State) x, t.Moves fs { t with mgmt := x } := fun t x =>
    .off ((t.setMgmt_only x).mono (by simpa using hm))
  unfold State.runCommand
  split
  · exact .refl s
  · split
    · exact h.trans (port ..)
    · exact .refl s
  · exact port ..

/-- Every field of State. -/
def Field.all : List Field :=
  [.device, .straps, .loanReq, .now, .portA, .portB, .memPort, .loan, .shadow, .fetch, .faults, .frame, .gather, .fanout,
    .chans, .params, .mgmt, .pending]

theorem State.only_all (s t : State) : s.Only Field.all t := ⟨fun f hf => absurd (by cases f <;> decide) hf⟩

/-- The fields a command changes otherwise than by the updates of `State.Moves`. -/
def Instr.free : Instr → List Field
  | .rstnFall => Field.all
  | .rstnRise _ => Field.all
  | .selftestCompletion _ => [.device, .fetch, .shadow, .gather, .fanout]
  | .controlRequest _ _ => [.portA, .portB]
  | .waitTimeout _ => [.portA, .portB]
  | .issue => [.portA, .portB, .memPort, .fetch]
  | .readCompletion _ _ => [.portA, .portB, .memPort, .loan, .fetch, .mgmt]
  | .writeCompletion => [.portA, .portB, .memPort, .loan]
  | .memoryTimeout => [.portA, .portB, .memPort, .loan, .fetch, .mgmt]
  | .loanRequest => [.loanReq, .loan]
  | .loanGrant => [.loan]
  | .loanEnd => [.loanReq, .loan, .fetch]
  | .loanWithdrawal => [.loanReq, .loan, .fetch]
  | .refinPulse => [.frame, .gather, .fanout, .mgmt]
  | .freeRunningSwitchPoint => [.frame, .gather, .fanout]
  | .windowExpiry => [.frame, .gather, .fanout, .mgmt]
  | .statusLost _ => []
  | .endpointStalled _ => []
  | .debtTick _ => []
  | .startingTimeout _ => []
  | .crosspointVisit => [.gather, .fanout]
  | .nameChangeVisit => [.gather, .fanout]
  | .messageEnd _ => []
  | .status _ _ => []
  | .framingError _ => []
  | .unknownType _ _ => []
  | .returnGapExpiry _ => []
  | .lineReturnedToMark _ => []
  | .returnByte _ _ => []
  | .clearEvents _ => [.mgmt, .faults]
  | .setParam _ _ _ _ => [.mgmt, .params]
  | .resync => [.mgmt, .fetch]
  | .softReset => [.mgmt, .shadow, .memPort, .fetch, .gather, .fanout, .faults, .chans]
  | .transactionBegin => [.mgmt]
  | .transactionEnd => [.mgmt]
  | .unknownCommand _ => [.mgmt]
  | .identify => [.mgmt]
  | .readStatus => [.mgmt]
  | .readFault _ => [.mgmt]
  | .setIrqMask _ => [.mgmt]
  | .getParam _ _ => [.mgmt]
  | .assign _ _ _ _ => [.mgmt]
  | .unassign _ _ => [.mgmt]
  | .readTile _ _ => [.mgmt]
  | .startChannels _ => [.mgmt]
  | .stopChannels _ => [.mgmt]
  | .readChannel _ => [.mgmt]

theorem State.emptyStores_only (s : State) (x : Shadow) (y : Gather) (z : Option Fanout) :
    s.Only [.shadow, .gather, .fanout] { s with shadow := x, gather := y, fanout := z } := by
  constructor
  intro f hf
  cases f <;> first | rfl | exact absurd (by decide) hf

/-- Every command moves the tables by their own updates, and the fields of `Instr.free`. -/
theorem exec_moves {c : Instr} {s t : State} (hx : exec c s = .next t) : s.Moves (Instr.free c) t := by
  have settled : ∀ {fs : List Field} {u : State}, [Field.portA, .portB] ⊆ fs → s.Moves fs u → s.Moves fs (s.settle u) :=
    fun sub h => h.trans ((State.settle_moves _ _).mono sub)
  have cmd : ∀ {fs : List Field} (l : List Byte) (run : State → State × List Byte), Field.mgmt ∈ fs →
      s.Moves fs (run s).1 → s.Moves fs (if s.up then s.runCommand l run else s) :=
    fun l run hm h => .guarded _ (s.runCommand_moves l run hm h)
  cases c <;> injection hx with hx <;> subst hx <;> dsimp only [Instr.free]
  case rstnFall => exact .off (s.only_all _)
  case rstnRise => exact .off (s.only_all _)
  case selftestCompletion pass =>
    exact .guarded _ (.trans (.off ((s.emptyStores_only ..).mono (by decide)))
      ((State.endStartUp_moves _ _).mono (by decide)))
  case controlRequest p r => exact .guarded _ ((s.takePresented_moves p).trans (State.presentRequest_moves ..))
  case waitTimeout p => exact .guarded _ (settled (by decide) (s.expireWait_moves p))
  case issue => exact .guarded _ (settled (by decide) s.issue_moves)
  case readCompletion x y => exact .guarded _ (settled (by decide) (s.readCompletes_moves x y))
  case writeCompletion => exact .guarded _ (settled (by decide) s.writeCompletes_moves)
  case memoryTimeout => exact .guarded _ (settled (by decide) s.memoryTimesOut_moves)
  case loanRequest => exact s.loanAsked_moves
  case loanGrant => exact .guarded _ s.grantIfDrained_moves
  case loanEnd => exact .off s.loanDropped_only
  case loanWithdrawal => exact .off s.loanDropped_only
  case refinPulse => exact .guarded _ s.pulse_moves
  case freeRunningSwitchPoint => exact .guarded _ s.freeRun_moves
  case windowExpiry => exact .guarded _ s.flywheel_moves
  case statusLost c => exact .guarded _ (s.channelEvent_moves ..)
  case endpointStalled c => exact .guarded _ (s.channelEvent_moves ..)
  case debtTick c => exact .guarded _ (s.channelEvent_moves ..)
  case startingTimeout c => exact .guarded _ (s.channelEvent_moves ..)
  case crosspointVisit => exact .guarded _ s.crosspointVisit_moves
  case nameChangeVisit => exact .guarded _ s.nameVisit_moves
  case messageEnd c => exact .guarded _ (s.messageEnds_moves _)
  case status c m => exact .guarded _ (s.receiveMessage_moves ..)
  case framingError c => exact .guarded _ (.chan ..)
  case unknownType c b => exact .guarded _ (s.receiveByte_moves ..)
  case returnGapExpiry c => exact .guarded _ (.chan ..)
  case lineReturnedToMark c => exact .guarded _ (.chan ..)
  case returnByte c b => exact .guarded _ (s.receiveByte_moves ..)
  case transactionBegin => exact .guarded _ (.off (s.setMgmt_only _))
  case transactionEnd => exact .guarded _ (.off (s.setMgmt_only _))
  case unknownCommand b => exact .guarded _ (.off (s.unknownByte_only b))
  case identify => exact cmd _ _ (by decide) (.refl s)
  case readStatus => exact cmd _ _ (by decide) (.refl s)
  case readFault n =>
    refine cmd _ _ (by decide) ?_
    split <;> exact .refl s
  case clearEvents m => exact cmd _ _ (by decide) (.off ((s.clearMasked_only m).mono (by decide)))
  case setIrqMask m => exact cmd _ _ (by decide) (.off (s.setMgmt_only _))
  case setParam n k v b => exact cmd _ _ (by decide) ((s.runSetParam_moves ..).mono (by decide))
  case getParam n k =>
    refine cmd _ _ (by decide) ?_
    rw [State.runGetParam_only]
    exact .refl s
  case assign k t l d => exact cmd _ _ (by decide) (s.runAssign_moves ..)
  case unassign k t => exact cmd _ _ (by decide) (s.runUnassign_moves ..)
  case readTile k t =>
    refine cmd _ _ (by decide) ?_
    split <;> exact .refl s
  case startChannels m => exact cmd _ _ (by decide) (s.runStart_moves m)
  case stopChannels m => exact cmd _ _ (by decide) (.chans ..)
  case readChannel k =>
    refine cmd _ _ (by decide) ?_
    split <;> exact .refl s
  case resync => exact cmd _ _ (by decide) (s.runResync_moves.mono (by decide))
  case softReset => exact cmd _ _ (by decide) (.off (s.softReset_only.mono (by decide)))

/-- A command touches its free fields and the tables' own at most. -/
theorem exec_only {c : Instr} {s t : State} (hx : exec c s = .next t) :
    s.Only (Instr.free c ++ [.shadow, .gather, .faults, .chans]) t := (exec_moves hx).only

/-- A condition that every command keeps, and that a taking and the passing of time keep, is kept by every step. -/
theorem step_keeps {P : State → Prop} (command : ∀ c s t, exec c s = .next t → P s → P t)
    (taking : ∀ s p, P s → P (State.takePresented s p)) (clock : ∀ s t : State, s.Only [.now, .pending] t → P s → P t)
    {s t : State} (hs : step s = .next t) (h : P s) : P t := by
  unfold step at hs
  split at hs
  · unfold idle at hs
    split at hs
    · split at hs
      · injection hs with hs
        exact hs ▸ taking _ _ h
      · split at hs
        · injection hs with hs
          exact hs ▸ taking _ _ h
        · split at hs
          · exact command _ _ _ hs h
          · injection hs with hs
            refine clock s t ?_ h
            subst hs
            constructor
            intro f hf
            cases f <;> first | rfl | exact absurd (by decide) hf
    · injection hs with hs
      exact hs ▸ h
  · rename_i rest _
    refine command _ _ _ hs (clock s _ ?_ h)
    constructor
    intro f hf
    cases f <;> first | rfl | exact absurd (by decide) hf

end Sys2Proof.Machine
end

section
/-! SUPPORT. The rules that the bounds of the stores rest on, each about one operation: the in-flight list with the loan, the
ports, the re-read list, the switch point, and the shadow entries of a word. -/

namespace Sys2Proof.Machine

/-! ### Shapes of the larger operations -/

/-- The part with RSTN just risen, its straps and return lines sampled (R55, R154). -/
def State.sampled (s : State) (pins : Pins) : State :=
  { s.heldInReset with straps := pins.straps, device := .selftest, chans := risenChannels pins.lines }

/-- What follows the sampling as RSTN rises: the start-up checks and a standing loan request (R54, R57). -/
theorem State.riseWith_moves (s : State) (pins : Pins) :
    (s.sampled pins).Moves [.device, .fetch, .loanReq, .loan] (s.riseWith pins) := by
  have standing : ∀ t : State, t.Moves [.device, .fetch, .loanReq, .loan] t.takeStandingLoan := fun t =>
    .guarded _ (t.loanAsked_moves.mono (by decide))
  unfold State.riseWith
  refine .trans ?_ (standing _)
  split
  · exact .refl _
  · exact (State.endStartUp_moves _ _).mono (by decide)

/-- A condition that the effect of a command keeps, and that does not read the management port, is kept by its bytes. -/
theorem State.runCommand_keeps {P : State → Prop} (port : ∀ (t : State) x, P t → P { t with mgmt := x }) {s : State}
    (l : List Byte) (run : State → State × List Byte) (h : P (run s).1) (e : P s) : P (s.runCommand l run) := by
  unfold State.runCommand
  split
  · exact e
  · split
    · exact port _ _ h
    · exact e
  · exact port _ _ e

/-- `t` is `s` after one switch point, with the frame reference's own items, F aside, changed around it. -/
def State.Switched (s t : State) : Prop :=
  ∃ u : State, s.Only [.frame] u ∧ u.frame.count = s.frame.count ∧ u.switchPoint.Only [.frame, .mgmt] t ∧
    t.frame.count = u.switchPoint.frame.count

/-- A switch point counts one frame (R91). -/
theorem State.switchPoint_count (s : State) : s.switchPoint.frame.count = s.frame.count + 1 := by
  have gathered := (({ s with frame := { s.frame with count := s.frame.count + 1 } } : State).gatherSwitchPoint_only).frame
    (by decide)
  have channels := (State.Only.foldl State.channelSwitchPoint State.channelSwitchPoint_only (List.range Config.channels)
    ({ s with frame := { s.frame with count := s.frame.count + 1 } } : State).gatherSwitchPoint).frame (by decide)
  rw [State.switchPoint, channels, gathered]

theorem State.Switched.count {s t : State} (h : s.Switched t) : t.frame.count = s.frame.count + 1 := by
  obtain ⟨u, _, hu, _, ht⟩ := h
  rw [ht, State.switchPoint_count, hu]

theorem State.setSwitchTime_count (s : State) (n : Nat) (l : Option Nat) (r : RefState) :
    (s.setSwitchTime n l r).frame.count = s.frame.count := rfl

/-- A switch point with its switch time set. -/
theorem State.switched_setSwitchTime (s : State) (n : Nat) (l : Option Nat) (r : RefState) :
    s.Switched (s.switchPoint.setSwitchTime n l r) :=
  ⟨s, .refl s, rfl, (s.switchPoint.setSwitchTime_only n l r).mono (by decide), s.switchPoint.setSwitchTime_count n l r⟩

/-- What follows a switch point in the event of a pulse leaves it a switch point. -/
theorem State.Switched.after {s t u : State} (h : s.Switched t) (o : t.Only [.frame, .mgmt] u)
    (c : u.frame.count = t.frame.count) : s.Switched u := by
  obtain ⟨v, hv, hc, ht, hf⟩ := h
  exact ⟨v, hv, hc, ht.trans o, c.trans hf⟩

/-- What comes before a switch point in the event of a pulse leaves it a switch point. -/
theorem State.Switched.before {s t u : State} (h : t.Switched u) (o : s.Only [.frame] t)
    (c : t.frame.count = s.frame.count) : s.Switched u := by
  obtain ⟨v, hv, hc, ht, hf⟩ := h
  exact ⟨v, o.trans hv, hc.trans c, ht, hf⟩

theorem State.Switched.cleared {s t : State} (h : s.Switched t) : s.Switched t.clearCandidates :=
  h.after (t.clearCandidates_only.mono (by decide)) rfl

theorem State.Switched.raised {s t : State} (h : s.Switched t) : s.Switched t.raiseReference :=
  h.after (t.raiseReference_only.mono (by decide)) rfl

/-- A re-acquire makes a switch point unless one was made at its pulse already (R90). -/
theorem State.reacquire_cases (s : State) (t : Nat) :
    s.Only [.frame, .mgmt] (s.reacquire t) ∨ s.Switched (s.reacquire t) := by
  unfold State.reacquire
  split
  · exact .inl ((((s.setSwitchTime_only ..).trans (State.clearCandidates_only _)).mono (by decide)).trans
      ((State.raiseReference_only _).mono (by decide)))
  · exact .inr (s.switched_setSwitchTime ..).cleared.raised

/-- A pulse makes one switch point or none; with none it touches the frame reference and the REFERENCE event (R87, R88,
R90). -/
theorem State.pulse_cases (s : State) : s.Only [.frame, .mgmt] s.pulse ∨ s.Switched s.pulse := by
  unfold State.pulse
  split
  · refine .inr ?_
    unfold State.acceptPulse
    dsimp only
    split
    · exact (s.switched_setSwitchTime ..).cleared.raised
    · exact (s.switched_setSwitchTime ..).cleared
  · unfold State.rejectPulse
    dsimp only
    split
    · rcases State.reacquire_cases _ s.now with quiet | switched
      · exact .inl (((s.setFrame_only _).mono (by decide)).trans quiet)
      · exact .inr (switched.before (s.setFrame_only _) rfl)
    · exact .inl ((s.setFrame_only _).mono (by decide))

theorem State.freeRun_switched (s : State) : s.Switched s.freeRun := s.switched_setSwitchTime ..

theorem State.flywheel_switched (s : State) : s.Switched s.flywheel := by
  unfold State.flywheel
  dsimp only
  split
  · exact (s.switched_setSwitchTime ..).raised
  · exact s.switched_setSwitchTime ..

/-! ### In-flight list and loan (R37, R49, R50) -/

theorem State.Only.busSound {fs : List Field} {s t : State} (h : s.Only fs t) (hm : Field.memPort ∉ fs)
    (hl : Field.loan ∉ fs) (b : s.BusSound) : t.BusSound := by
  rw [State.BusSound, h.memPort hm, h.loan hl]
  exact b

/-- A granted loan finds nothing to grant (R50). -/
theorem State.grantIfDrained_of_granted {s : State} (h : s.loan = .granted) : s.grantIfDrained = s := by
  rw [State.grantIfDrained, if_neg (by simp [h])]

theorem State.issue_busSound {s : State} (b : s.BusSound) : s.issue.BusSound := by
  have loan : s.issue.loan = s.loan := s.issue_only.loan (by decide)
  rcases s.issue_inflight with same | ⟨none, few, one⟩
  · rw [State.BusSound, same, loan]
    exact b
  · exact ⟨by omega, by simp [loan, none], by simp [loan, none]⟩

/-- A list with something in it is not in a granted loan, so a completion that shortens it leaves the bus sound. -/
theorem State.BusSound.shorter {s t : State} {e : Access} {rest : List Access} (b : s.BusSound)
    (hl : s.memPort.inflight = e :: rest) (ht : t.memPort.inflight = rest) (loan : t.loan = s.loan) :
    t.grantIfDrained.BusSound := by
  obtain ⟨few, granted, _⟩ := b
  rw [hl] at few granted
  refine t.grantIfDrained_busSound ?_ ?_
  · rw [ht]
    exact Nat.le_of_succ_le few
  · rw [loan]
    exact fun h => by cases granted h

theorem State.readCompletes_busSound {s : State} (x : BitVec 32) (c : BitVec 7) (b : s.BusSound) :
    (s.readCompletes x c).BusSound := by
  rcases s.readCompletes_bus x c with same | ⟨e, rest, t, hl, ht, hr, loan⟩
  · rwa [same]
  · exact ht ▸ b.shorter hl hr loan

theorem State.writeCompletes_busSound {s : State} (b : s.BusSound) : s.writeCompletes.BusSound := by
  rcases s.writeCompletes_bus with same | ⟨e, rest, t, hl, ht, hr, loan⟩
  · rwa [same]
  · exact ht ▸ b.shorter hl hr loan

theorem State.memoryTimesOut_busSound {s : State} (b : s.BusSound) : s.memoryTimesOut.BusSound := by
  rcases s.memoryTimesOut_bus with same | ⟨t, ht, empty, loan⟩
  · rwa [same]
  · rw [ht]
    by_cases granted : t.loan = .granted
    · rw [State.grantIfDrained_of_granted granted]
      exact ⟨by simp [empty], fun _ => empty, by simp [granted]⟩
    · exact t.grantIfDrained_busSound (by simp [empty]) granted

theorem State.grantIfDrained_keeps_busSound {s : State} (b : s.BusSound) : s.grantIfDrained.BusSound := by
  by_cases granted : s.loan = .granted
  · rwa [State.grantIfDrained_of_granted granted]
  · exact s.grantIfDrained_busSound b.1 granted

theorem State.loanAsked_busSound {s : State} (b : s.BusSound) : s.loanAsked.BusSound := by
  unfold State.loanAsked
  dsimp only
  split
  · exact State.grantIfDrained_busSound _ b.1 (by simp)
  · exact b

theorem State.loanDropped_busSound {s : State} (b : s.BusSound) : s.loanDropped.BusSound := by
  have released : ({ s with loanReq := false, loan := .none } : State).BusSound := ⟨b.1, by simp, by simp⟩
  unfold State.loanDropped
  dsimp only
  split
  · split
    · exact (State.restartSweep_only _).busSound (by decide) (by decide) released
    · exact released
    · exact b
  · exact b

theorem State.softReset_inflight (s : State) :
    s.softReset.memPort.inflight =
      s.memPort.inflight.map fun (e : Access) => if e.region = Region.outside then e else Access.stale e :=
  congrArg MemPort.inflight ((State.restartSweep_only _).memPort (by decide))

theorem State.softReset_busSound {s : State} (b : s.BusSound) : s.softReset.BusSound := by
  have loan : s.softReset.loan = s.loan := s.softReset_only.loan (by decide)
  simpa [State.BusSound, loan, State.softReset_inflight] using b

theorem State.sampled_busSound (s : State) (pins : Pins) : (s.sampled pins).BusSound :=
  ⟨Nat.zero_le _, fun _ => rfl, fun h => by cases h⟩

theorem State.riseWith_busSound (s : State) (pins : Pins) : (s.riseWith pins).BusSound := by
  have standing : ∀ t : State, t.BusSound → t.takeStandingLoan.BusSound := by
    intro t b
    unfold State.takeStandingLoan
    split
    · exact t.loanAsked_busSound b
    · exact b
  unfold State.riseWith
  refine standing _ ?_
  split
  · exact s.sampled_busSound pins
  · exact (State.endStartUp_only _ _).busSound (by decide) (by decide) (s.sampled_busSound pins)

/-! ### Ports (R22, R27) -/

/-- What answering and issuing do to the ports: what stands presented stays, and no queue grows. -/
structure State.Served (s t : State) : Prop where
  presented : ∀ p, (t.port p).presented = (s.port p).presented
  queue : ∀ p, (t.port p).queue.length ≤ (s.port p).queue.length

theorem State.Served.refl (s : State) : s.Served s := ⟨fun _ => rfl, fun _ => Nat.le_refl _⟩

theorem State.Served.trans {s t u : State} (h : s.Served t) (g : t.Served u) : s.Served u :=
  ⟨fun p => (g.presented p).trans (h.presented p), fun p => Nat.le_trans (g.queue p) (h.queue p)⟩

theorem State.Served.foldl {α : Type} (g : State → α → State) (hg : ∀ (s : State) (x : α), s.Served (g s x)) (l : List α)
    (s : State) : s.Served (l.foldl g s) := by
  induction l generalizing s with
  | nil => exact .refl s
  | cons x l ih => exact (hg s x).trans (ih (g s x))

theorem State.Only.served {fs : List Field} {s t : State} (h : s.Only fs t) (ha : Field.portA ∉ fs)
    (hb : Field.portB ∉ fs) : s.Served t := by
  constructor <;> intro p <;> rw [h.port ha hb]

theorem State.setPort_served {s : State} {p : PortId} {x : Port} (hp : x.presented = (s.port p).presented)
    (hq : x.queue.length ≤ (s.port p).queue.length) : s.Served (s.setPort p x) := by
  constructor <;> intro q <;> rw [State.port_setPort] <;> split
  · subst_vars
    exact hp
  · rfl
  · subst_vars
    exact hq
  · exact Nat.le_refl _

theorem State.answerPort_served (s : State) (p : PortId) (a : Answer) : s.Served (s.answerPort p a) :=
  State.setPort_served rfl (Nat.le_refl _)

theorem Port.takeHead_spec (pt : Port) (rest : List WriteWord) :
    (pt.takeHead rest).presented = pt.presented ∧ (pt.takeHead rest).queue.length ≤ rest.length + 1 := by
  unfold Port.takeHead
  split
  · exact ⟨rfl, by simp⟩
  · exact ⟨rfl, Nat.le_succ _⟩

theorem State.issueGrant_served (s : State) (g : Grant) : s.Served (s.issueGrant g) := by
  have started : ∀ p r, s.Served (s.setPort p { s.port p with pending := some r }) := fun p r =>
    State.setPort_served rfl (Nat.le_refl _)
  unfold State.issueGrant
  split
  · exact (s.takeFetchRead_only.served (by decide) (by decide)).trans
      ((State.issueRead_only ..).served (by decide) (by decide))
  · split
    · exact .refl s
    · dsimp only
      split
      · exact (started _ _).trans ((State.issueRead_only ..).served (by decide) (by decide))
      · exact (started _ _).trans ((State.issueWrite_only ..).served (by decide) (by decide))
  · split
    · exact .refl s
    · rename_i p _ w rest hq
      obtain ⟨presented, queue⟩ := (s.port p).takeHead_spec rest
      exact .trans (State.setPort_served presented (by rw [hq]; exact queue))
        ((State.issueWrite_only ..).served (by decide) (by decide))

theorem State.issue_served (s : State) : s.Served s.issue := by
  unfold State.issue
  split
  · split
    · exact ((s.noteGrant_only _).served (by decide) (by decide)).trans (State.issueGrant_served ..)
    · exact .refl s
  · exact .refl s

theorem State.expireWait_served (s : State) (p : PortId) : s.Served (s.expireWait p) := by
  unfold State.expireWait
  split
  · split
    · exact (s.answerPort_served ..).trans ((State.recordFault_only ..).served (by decide) (by decide))
    · exact .refl s
  · exact .refl s

theorem State.deliverRead_served (s : State) (e : Access) (stale : Bool) (d : Decoded) :
    s.Served (s.deliverRead e stale d) := by
  have finished := s.finishFetch_only.served (by decide) (by decide)
  unfold State.deliverRead
  split
  · exact s.answerPort_served ..
  · dsimp only
    split
    · exact finished.trans ((State.addReread_only ..).served (by decide) (by decide))
    · exact finished

theorem State.completeRead_served (s : State) (e : Access) (stale : Bool) (x : BitVec 32) (c : BitVec 7) :
    s.Served (s.completeRead e stale x c) := by
  have recorded := fun o => (s.recordReadDecode_only e o).served (by decide) (by decide)
  unfold State.completeRead
  dsimp only
  refine .trans ?_ (State.deliverRead_served ..)
  split
  · exact (recorded _).trans ((State.trackRead_only ..).served (by decide) (by decide))
  · exact recorded _

theorem State.grantIfDrained_served (s : State) : s.Served s.grantIfDrained :=
  s.grantIfDrained_only.served (by decide) (by decide)

theorem State.popInflight_served (s : State) (l : List Access) : s.Served (s.popInflight l) :=
  (s.popInflight_only l).served (by decide) (by decide)

theorem State.readCompletes_served (s : State) (x : BitVec 32) (c : BitVec 7) : s.Served (s.readCompletes x c) := by
  unfold State.readCompletes
  split
  · exact .refl s
  · split
    · exact ((s.popInflight_served _).trans (State.completeRead_served ..)).trans (State.grantIfDrained_served _)
    · exact .refl s

theorem State.writeCompletes_served (s : State) : s.Served s.writeCompletes := by
  unfold State.writeCompletes
  split
  · exact .refl s
  · split
    · exact .refl s
    · refine .trans ?_ (State.grantIfDrained_served _)
      split
      · split
        · exact s.popInflight_served _
        · exact (s.popInflight_served _).trans (State.answerPort_served ..)
      · exact s.popInflight_served _

theorem State.abandon_served (s : State) (e : Access) : s.Served (s.abandon e) := by
  unfold State.abandon
  split
  · exact (s.answerPort_served ..).trans ((State.recordFault_only ..).served (by decide) (by decide))
  · exact ((s.finishFetch_only.served (by decide) (by decide)).trans
      ((State.recordFault_only ..).served (by decide) (by decide))).trans
      ((State.addReread_only ..).served (by decide) (by decide))
  · rename_i posted p _ _
    have answered : s.Served (if posted then s else s.answerPort p .fail) := by
      split
      · exact .refl s
      · exact s.answerPort_served ..
    dsimp only
    split
    · exact answered
    · exact ((answered.trans ((State.actOnWord_only ..).served (by decide) (by decide))).trans
        ((State.recordFault_only ..).served (by decide) (by decide))).trans
        ((State.addReread_only ..).served (by decide) (by decide))
  · exact .refl s

theorem State.memoryTimesOut_served (s : State) : s.Served s.memoryTimesOut := by
  unfold State.memoryTimesOut
  split
  · exact .refl s
  · split
    · exact ((s.popInflight_served _).trans (.foldl _ State.abandon_served _ _)).trans (State.grantIfDrained_served _)
    · exact .refl s

/-! #### Posted-write queues -/

theorem State.queuesWithinDepth_iff {s : State} :
    s.QueuesWithinDepth ↔ ∀ p, (s.port p).queue.length ≤ s.postingDepth := by
  refine ⟨fun h p => ?_, fun h => ⟨h .a, h .b⟩⟩
  cases p
  · exact h.1
  · exact h.2

theorem State.Served.queues {s t : State} (h : s.Served t) (straps : t.straps = s.straps) (q : s.QueuesWithinDepth) :
    t.QueuesWithinDepth := by
  rw [State.queuesWithinDepth_iff] at q ⊢
  intro p
  rw [State.postingDepth, straps]
  exact Nat.le_trans (h.queue p) (q p)

theorem State.Only.queues {fs : List Field} {s t : State} (h : s.Only fs t) (ha : Field.portA ∉ fs)
    (hb : Field.portB ∉ fs) (hs : Field.straps ∉ fs) (q : s.QueuesWithinDepth) : t.QueuesWithinDepth :=
  (h.served ha hb).queues (h.straps hs) q

theorem State.setPort_queues {s : State} (p : PortId) {x : Port} (h : x.queue.length ≤ s.postingDepth)
    (q : s.QueuesWithinDepth) : (s.setPort p x).QueuesWithinDepth := by
  rw [State.queuesWithinDepth_iff] at q ⊢
  intro j
  rw [State.postingDepth, State.setPort_straps, State.port_setPort]
  split
  · exact h
  · exact q j

/-- A write enters a queue only where there is space (R28). -/
theorem State.acceptWrite_queues {s : State} (p : PortId) (w : WriteWord) (q : s.QueuesWithinDepth) :
    (s.acceptWrite p w).QueuesWithinDepth := by
  have kept := State.queuesWithinDepth_iff.mp q p
  unfold State.acceptWrite
  split
  · split
    · refine s.setPort_queues p ?_ q
      simp_all [State.postingDepth]
    · exact s.setPort_queues p kept q
  · exact s.setPort_queues p kept q

theorem State.takeRequest_queues {s : State} (p : PortId) (r : Request) (q : s.QueuesWithinDepth) :
    (s.takeRequest p r).QueuesWithinDepth := by
  have kept := State.queuesWithinDepth_iff.mp q p
  have refused : ∀ k a, (s.refuseRequest p k a).QueuesWithinDepth := fun k a =>
    (State.recordFault_only ..).queues (by decide) (by decide) (by decide) (s.setPort_queues p kept q)
  unfold State.takeRequest
  split
  · exact refused ..
  · split
    · exact refused ..
    · split
      · exact State.acceptWrite_queues p _
          ((State.recordWriteDecode_only ..).queues (by decide) (by decide) (by decide) q)
      · exact s.setPort_queues p kept q

theorem State.presentRequest_queues {s : State} (p : PortId) (r : Request) (q : s.QueuesWithinDepth) :
    (s.presentRequest p r).QueuesWithinDepth := by
  unfold State.presentRequest
  split
  · exact State.takeRequest_queues p r q
  · exact s.setPort_queues p (State.queuesWithinDepth_iff.mp q p) q

theorem State.takePresented_queues {s : State} (p : PortId) (q : s.QueuesWithinDepth) :
    (s.takePresented p).QueuesWithinDepth := by
  unfold State.takePresented
  split
  · exact q
  · exact List.foldlRecOn (motive := State.QueuesWithinDepth) _ _
      (s.setPort_queues p (State.queuesWithinDepth_iff.mp q p) q) fun _ h r _ => State.presentRequest_queues p r h

theorem State.settle_queues {s t : State} (q : t.QueuesWithinDepth) : (s.settle t).QueuesWithinDepth := by
  have freed : ∀ (u : State) p, u.QueuesWithinDepth → (s.freeing u p).QueuesWithinDepth := by
    intro u p h
    unfold State.freeing
    split
    · exact u.takePresented_queues p h
    · exact h
  exact freed _ _ (freed _ _ q)

/-! #### Requests standing presented -/

/-- A port's requests stand presented only behind a pending one (R22). -/
def Port.InTurn (pt : Port) : Prop := pt.pending = none → pt.presented = []

/-- An accepted write leaves the other port, and what stands presented, as they are. -/
theorem State.acceptWrite_port (s : State) (p : PortId) (w : WriteWord) :
    ((s.acceptWrite p w).port p).presented = (s.port p).presented ∧
      ∀ q, q ≠ p → (s.acceptWrite p w).port q = s.port q := by
  unfold State.acceptWrite State.makePending
  split
  · split <;> exact ⟨by rw [State.port_setPort_same], fun q hq => State.port_setPort_other s _ hq.symm⟩
  · exact ⟨by rw [State.port_setPort_same], fun q hq => State.port_setPort_other s _ hq.symm⟩

/-- Taking a request leaves the other port, and what stands presented, as they are. -/
theorem State.takeRequest_port (s : State) (p : PortId) (r : Request) :
    ((s.takeRequest p r).port p).presented = (s.port p).presented ∧
      ∀ q, q ≠ p → (s.takeRequest p r).port q = s.port q := by
  have kept : ∀ x : Port, x.presented = (s.port p).presented →
      ((s.setPort p x).port p).presented = (s.port p).presented ∧ ∀ q, q ≠ p → (s.setPort p x).port q = s.port q :=
    fun x hx => ⟨by rw [State.port_setPort_same, hx], fun q hq => State.port_setPort_other s x hq.symm⟩
  have refused : ∀ k a, ((s.refuseRequest p k a).port p).presented = (s.port p).presented ∧
      ∀ q, q ≠ p → (s.refuseRequest p k a).port q = s.port q := by
    intro k a
    simpa only [State.refuseRequest, State.recordFault_port] using
      kept { s.port p with answers := (s.port p).answers ++ [.fail] } rfl
  unfold State.takeRequest
  split
  · exact refused ..
  · split
    · exact refused ..
    · split
      · have decoded : ∀ o q, (s.recordWriteDecode p o r.addr).port q = s.port q := fun o q =>
          (s.recordWriteDecode_only ..).port (by decide) (by decide) q
        simpa only [decoded] using State.acceptWrite_port (s.recordWriteDecode p _ r.addr) p _
      · exact kept _ rfl

theorem State.presentRequest_other (s : State) {p q : PortId} (r : Request) (h : q ≠ p) :
    (s.presentRequest p r).port q = s.port q := by
  unfold State.presentRequest
  split
  · exact (s.takeRequest_port p r).2 q h
  · exact State.port_setPort_other s _ h.symm

theorem State.presentRequest_inTurn {s : State} {p : PortId} (r : Request) (h : (s.port p).InTurn) :
    ((s.presentRequest p r).port p).InTurn := by
  unfold State.presentRequest
  split
  · rename_i free
    intro _
    rw [(s.takeRequest_port p r).1, h free]
  · rename_i held
    intro none
    simp [held] at none

theorem State.takePresented_other (s : State) {p q : PortId} (h : q ≠ p) : (s.takePresented p).port q = s.port q := by
  unfold State.takePresented
  split
  · rfl
  · exact List.foldlRecOn (motive := fun t => State.port t q = s.port q) _ _
      (State.port_setPort_other s _ h.symm) fun _ ih r _ => (State.presentRequest_other _ r h).trans ih

/-- A taking leaves its port in turn, whatever it found. -/
theorem State.takePresented_inTurn (s : State) (p : PortId) : ((s.takePresented p).port p).InTurn := by
  unfold State.takePresented
  split
  · rename_i held
    intro none
    rw [held] at none
    cases none
  · exact List.foldlRecOn (motive := fun t => (State.port t p).InTurn) _ _
      (fun _ => by rw [State.port_setPort_same]) fun _ ih r _ => State.presentRequest_inTurn r ih

theorem State.takePresented_requestsInTurn {s : State} (p : PortId) (h : s.RequestsInTurn) :
    (s.takePresented p).RequestsInTurn := by
  intro q
  by_cases hq : q = p
  · exact hq ▸ s.takePresented_inTurn p
  · rw [s.takePresented_other hq]
    exact h q

theorem State.presentRequest_requestsInTurn {s : State} (p : PortId) (r : Request) (h : s.RequestsInTurn) :
    (s.presentRequest p r).RequestsInTurn := by
  intro q
  by_cases hq : q = p
  · exact hq ▸ State.presentRequest_inTurn r (hq ▸ h q)
  · rw [s.presentRequest_other r hq]
    exact h q

theorem State.freeing_other (s t : State) {p q : PortId} (h : q ≠ p) : (s.freeing t p).port q = t.port q := by
  unfold State.freeing
  split
  · exact t.takePresented_other h
  · rfl

/-- A port freed by an event takes what stands presented, so it is in turn after the event (R22). -/
theorem State.freeing_inTurn {s t : State} {p : PortId} (h : (s.port p).InTurn)
    (presented : (t.port p).presented = (s.port p).presented) : ((s.freeing t p).port p).InTurn := by
  unfold State.freeing
  split
  · exact t.takePresented_inTurn p
  · rename_i free
    intro _
    rw [presented]
    exact h (by simpa using free)

theorem State.Served.settled {s t : State} (h : s.Served t) (turn : s.RequestsInTurn) : (s.settle t).RequestsInTurn := by
  intro p
  cases p
  · rw [State.settle, State.freeing_other _ _ (by decide)]
    exact State.freeing_inTurn (turn .a) (h.presented .a)
  · refine State.freeing_inTurn (turn .b) ?_
    rw [State.freeing_other _ _ (by decide)]
    exact h.presented .b

theorem State.Only.requestsInTurn {fs : List Field} {s t : State} (h : s.Only fs t) (ha : Field.portA ∉ fs)
    (hb : Field.portB ∉ fs) (turn : s.RequestsInTurn) : t.RequestsInTurn := by
  intro p
  rw [h.port ha hb]
  exact turn p

/-! ### Re-read list and fetch read (R60, R65) -/

theorem State.Only.fetchSound {fs : List Field} {s t : State} (h : s.Only fs t) (hm : Field.memPort ∉ fs)
    (hf : Field.fetch ∉ fs) (f : s.FetchSound) : t.FetchSound := by
  rw [State.FetchSound, h.memPort hm, h.fetch hf]
  exact f

/-- The condition reads the re-read list and the in-flight list, which may be shorter. -/
theorem State.FetchSound.of_lists {s t : State} (f : s.FetchSound) (reread : t.fetch.reread.Sublist s.fetch.reread)
    (inflight : t.memPort.inflight.Sublist s.memPort.inflight) : t.FetchSound := by
  obtain ⟨len, nodup, one⟩ := f
  exact ⟨Nat.le_trans reread.length_le len, nodup.sublist reread,
    Nat.le_trans (inflight.filter _).length_le one⟩

theorem State.addReread_fetchSound {s : State} (a : WordAddr) (f : s.FetchSound) : (s.addReread a).FetchSound := by
  obtain ⟨len, nodup, one⟩ := f
  obtain ⟨len', nodup'⟩ := s.addReread_list a ⟨len, nodup⟩
  refine ⟨len', nodup', ?_⟩
  rwa [(s.addReread_only a).memPort (by decide)]

theorem State.restartSweep_reread (s : State) : s.restartSweep.fetch.reread = s.fetch.reread := by
  unfold State.restartSweep
  split <;> rfl

theorem State.restartSweep_fetchSound {s : State} (f : s.FetchSound) : s.restartSweep.FetchSound :=
  f.of_lists (by rw [State.restartSweep_reread])
    (by rw [s.restartSweep_only.memPort (by decide)])

theorem State.finishFetch_fetchSound {s : State} (f : s.FetchSound) : s.finishFetch.FetchSound := by
  unfold State.finishFetch
  split <;> exact f

theorem State.snoop_fetchSound {s : State} (w : WriteWord) (f : s.FetchSound) : (s.snoop w).FetchSound := by
  have acted := fun a g h => (s.actOnWord_only a g h).fetchSound (by decide) (by decide) f
  unfold State.snoop
  dsimp only
  split
  · exact State.addReread_fetchSound _ (acted ..)
  · exact acted ..

/-- A port's access in flight is no fetch read. -/
theorem State.appendAccess_port_fetchSound {s : State} (p : PortId) (op : AccessOp) (a : WordAddr) (f : s.FetchSound) :
    (s.appendAccess (.port p) op a).FetchSound := by
  obtain ⟨len, nodup, one⟩ := f
  refine ⟨len, nodup, ?_⟩
  simpa [State.appendAccess, List.filter_append] using one

@[simp] theorem Access.stale_origin (e : Access) : e.stale.origin = e.origin := by
  unfold Access.stale
  split <;> rfl

/-- Marks set on some accesses leave the number of fetch reads in flight. -/
theorem fetchReads_map (g : Access → Access) (hg : ∀ e, (g e).origin = e.origin) (l : List Access) :
    ((l.map g).filter fun e => e.origin == .fetch).length = (l.filter fun e => e.origin == .fetch).length := by
  rw [List.filter_map, List.length_map]
  congr 2
  funext e
  simp [hg]

theorem State.markStale_fetchSound {s : State} (a : WordAddr) (f : s.FetchSound) : (s.markStale a).FetchSound := by
  obtain ⟨len, nodup, one⟩ := f
  refine ⟨len, nodup, ?_⟩
  rw [State.markStale, fetchReads_map _ (fun e => by split <;> simp)]
  exact one

theorem State.issueWrite_fetchSound {s : State} (p : PortId) (w : WriteWord) (b : Bool) (f : s.FetchSound) :
    (s.issueWrite p w b).FetchSound :=
  State.snoop_fetchSound w (State.appendAccess_port_fetchSound p _ _ (State.markStale_fetchSound _ f))

theorem State.takeFetchRead_reread (s : State) : s.takeFetchRead.fetch.reread.Sublist s.fetch.reread := by
  unfold State.takeFetchRead
  split
  · rename_i h
    simp [h]
  · exact .refl _
  · exact .refl _

/-- A fetch read is issued only where none is in flight (R60). -/
theorem State.issueFetch_fetchSound {s : State} (a : WordAddr) (idle : s.fetchBusy = false) (f : s.FetchSound) :
    (s.takeFetchRead.issueRead .fetch a).FetchSound := by
  obtain ⟨len, nodup, _⟩ := f
  have inflight : s.takeFetchRead.memPort = s.memPort := s.takeFetchRead_only.memPort (by decide)
  have none : (s.memPort.inflight.filter fun e => e.origin == .fetch) = [] := by
    simpa [State.fetchBusy, List.filter_eq_nil_iff] using idle
  refine ⟨Nat.le_trans s.takeFetchRead_reread.length_le len, nodup.sublist s.takeFetchRead_reread, ?_⟩
  simp [State.issueRead, State.appendAccess, List.filter_append, inflight, none]

theorem State.issueGrant_fetchSound {s : State} (g : Grant) (idle : ∀ a, g = .fetch a → s.fetchBusy = false)
    (f : s.FetchSound) : (s.issueGrant g).FetchSound := by
  have placed := fun p x => (s.setPort_only p x).fetchSound (by decide) (by decide) f
  unfold State.issueGrant
  split
  · exact State.issueFetch_fetchSound _ (idle _ rfl) f
  · split
    · exact f
    · dsimp only
      split
      · exact State.appendAccess_port_fetchSound _ _ _ (placed ..)
      · exact State.issueWrite_fetchSound _ _ _ (placed ..)
  · split
    · exact f
    · exact State.issueWrite_fetchSound _ _ _ (placed ..)

/-- The arbiter grants the ports no fetch read (R46). -/
theorem State.grantPort_port {s : State} {g : Grant} (h : s.grantPort = some g) : ∃ p c, g = .port p c := by
  unfold State.grantPort at h
  split at h
  · split at h <;> injection h with h <;> exact ⟨_, _, h.symm⟩
  · injection h with h
    exact ⟨_, _, h.symm⟩
  · injection h with h
    exact ⟨_, _, h.symm⟩
  · cases h

/-- A fetch read granted is the fetch engine's waiting read (R46, R60). -/
theorem State.arbitrate_fetch {s : State} {a : WordAddr} (h : s.arbitrate = some (.fetch a)) :
    s.fetchWaiting = some a := by
  have port : s.grantPort ≠ some (.fetch a) := by
    intro hp
    obtain ⟨p, c, hg⟩ := State.grantPort_port hp
    cases hg
  unfold State.arbitrate at h
  split at h
  · rename_i b hb
    split at h
    · simp_all
    · split at h
      · simp_all
      · simp_all
  · exact absurd h port

/-- The fetch engine has a read waiting only while the tracker is live and none is in flight (R60). -/
theorem State.fetchWaiting_some {s : State} {a : WordAddr} (h : s.fetchWaiting = some a) :
    s.live = true ∧ s.fetchBusy = false := by
  unfold State.fetchWaiting at h
  split at h
  · simp_all
  · cases h

theorem State.noteGrant_inflight (s : State) (g : Grant) : (s.noteGrant g).memPort.inflight = s.memPort.inflight := by
  cases g <;> rfl

theorem State.issue_fetchSound {s : State} (f : s.FetchSound) : s.issue.FetchSound := by
  unfold State.issue
  split
  · split
    · rename_i g granted
      refine State.issueGrant_fetchSound g ?_ ?_
      · rintro a rfl
        exact (State.fetchWaiting_some (State.arbitrate_fetch granted)).2
      · exact f.of_lists (by rw [(s.noteGrant_only g).fetch (by decide)]) (by rw [State.noteGrant_inflight])
    · exact f
  · exact f

theorem State.deliverRead_fetchSound {s : State} (e : Access) (stale : Bool) (d : Decoded) (f : s.FetchSound) :
    (s.deliverRead e stale d).FetchSound := by
  unfold State.deliverRead
  split
  · exact (s.answerPort_only ..).fetchSound (by decide) (by decide) f
  · dsimp only
    split
    · exact State.addReread_fetchSound _ (State.finishFetch_fetchSound f)
    · exact State.finishFetch_fetchSound f

theorem State.completeRead_fetchSound {s : State} (e : Access) (stale : Bool) (x : BitVec 32) (c : BitVec 7)
    (f : s.FetchSound) : (s.completeRead e stale x c).FetchSound := by
  have recorded := fun o => (s.recordReadDecode_only e o).fetchSound (by decide) (by decide) f
  unfold State.completeRead
  refine State.deliverRead_fetchSound _ _ _ ?_
  split
  · exact (State.trackRead_only ..).fetchSound (by decide) (by decide) (recorded _)
  · exact recorded _

theorem State.grantIfDrained_fetchSound {s : State} (f : s.FetchSound) : s.grantIfDrained.FetchSound :=
  s.grantIfDrained_only.fetchSound (by decide) (by decide) f

theorem State.readCompletes_fetchSound {s : State} (x : BitVec 32) (c : BitVec 7) (f : s.FetchSound) :
    (s.readCompletes x c).FetchSound := by
  unfold State.readCompletes
  split
  · exact f
  · rename_i e rest hl
    split
    · refine State.grantIfDrained_fetchSound (State.completeRead_fetchSound _ _ _ _ (f.of_lists (.refl _) ?_))
      rw [hl]
      exact List.sublist_cons_self ..
    · exact f

theorem State.writeCompletes_fetchSound {s : State} (f : s.FetchSound) : s.writeCompletes.FetchSound := by
  have fetch : s.writeCompletes.fetch = s.fetch := s.writeCompletes_only.fetch (by decide)
  rcases s.writeCompletes_bus with same | ⟨e, rest, t, hl, ht, hr, _⟩
  · rwa [same]
  · refine f.of_lists (by rw [fetch]) ?_
    rw [ht, t.grantIfDrained_only.memPort (by decide), hr, hl]
    exact List.sublist_cons_self ..

theorem State.abandon_fetchSound {s : State} (e : Access) (f : s.FetchSound) : (s.abandon e).FetchSound := by
  have answered : ∀ p, (s.answerPort p .fail).FetchSound := fun p =>
    (s.answerPort_only ..).fetchSound (by decide) (by decide) f
  have recorded : ∀ (t : State) k o l, t.FetchSound → (t.recordFault k o l).FetchSound := fun t k o l h =>
    (t.recordFault_only k o l).fetchSound (by decide) (by decide) h
  unfold State.abandon
  split
  · exact recorded _ _ _ _ (answered _)
  · exact State.addReread_fetchSound _ (recorded _ _ _ _ (State.finishFetch_fetchSound f))
  · rename_i posted p _ _
    have h : (if posted then s else s.answerPort p .fail).FetchSound := by
      split
      · exact f
      · exact answered p
    dsimp only
    split
    · exact h
    · exact State.addReread_fetchSound _ (recorded _ _ _ _
        ((State.actOnWord_only ..).fetchSound (by decide) (by decide) h))
  · exact f

theorem State.memoryTimesOut_fetchSound {s : State} (f : s.FetchSound) : s.memoryTimesOut.FetchSound := by
  unfold State.memoryTimesOut
  split
  · exact f
  · split
    · refine State.grantIfDrained_fetchSound (List.foldlRecOn (motive := State.FetchSound) _ _ ?_
        fun _ h e _ => State.abandon_fetchSound e h)
      exact f.of_lists (.refl _) (List.nil_sublist _)
    · exact f

theorem State.loanDropped_fetchSound {s : State} (f : s.FetchSound) : s.loanDropped.FetchSound := by
  unfold State.loanDropped
  dsimp only
  split
  · split
    · exact State.restartSweep_fetchSound f
    · exact f
    · exact f
  · exact f

theorem State.runResync_fetchSound {s : State} (f : s.FetchSound) : s.runResync.1.FetchSound := by
  unfold State.runResync State.refuse
  split
  · exact f
  · exact State.restartSweep_fetchSound f

theorem State.softReset_fetchSound {s : State} (f : s.FetchSound) : s.softReset.FetchSound := by
  unfold State.softReset
  refine State.restartSweep_fetchSound ⟨Nat.zero_le _, List.nodup_nil, ?_⟩
  refine Nat.le_trans (Nat.le_of_eq (fetchReads_map _ (fun e => ?_) _)) f.2.2
  split <;> simp

theorem State.endStartUp_fetchSound {s : State} (pass : Bool) (f : s.FetchSound) : (s.endStartUp pass).FetchSound := by
  have halted : ∀ (t : State) k l, t.FetchSound → (t.recordHalt k l).FetchSound := fun t k l h =>
    (t.recordHalt_only k l).fetchSound (by decide) (by decide) h
  unfold State.endStartUp
  refine State.restartSweep_fetchSound ?_
  split <;> split
  · exact halted _ _ _ f
  · exact halted _ _ _ (halted _ _ _ f)
  · exact f
  · exact halted _ _ _ f

theorem State.riseWith_fetchSound (s : State) (pins : Pins) : (s.riseWith pins).FetchSound := by
  have sampled : (s.sampled pins).FetchSound := ⟨Nat.zero_le _, List.nodup_nil, Nat.zero_le _⟩
  have standing : ∀ t : State, t.FetchSound → t.takeStandingLoan.FetchSound := by
    intro t f
    unfold State.takeStandingLoan
    split
    · exact t.loanAsked_only.fetchSound (by decide) (by decide) f
    · exact f
  unfold State.riseWith
  refine standing _ ?_
  split
  · exact sampled
  · exact State.endStartUp_fetchSound _ sampled

/-! ### Take queue, dirty list and fan-out engine (R97, R99, R102, R116) -/

theorem State.Only.takesSound {fs : List Field} {s t : State} (h : s.Only fs t) (hg : Field.gather ∉ fs)
    (hf : Field.fanout ∉ fs) (k : s.TakesSound) : t.TakesSound := by
  rw [State.TakesSound, h.gather hg, h.fanout hf]
  exact k

theorem State.Moves.takesSound {fs : List Field} {s t : State} (h : s.Moves fs t) (hg : Field.gather ∉ fs)
    (hf : Field.fanout ∉ fs) (k : s.TakesSound) : t.TakesSound := by
  induction h with
  | off h => exact h.takesSound hg hf k
  | chan s c ch => exact k
  | chans s f => exact k
  | fault s k' o l => exact k
  | word s a f g =>
    obtain ⟨dirty, queue⟩ := s.actOnWord_gather a f g
    obtain ⟨len, items, nodup, engine⟩ := k
    rw [State.TakesSound, queue, (s.actOnWord_only a f g).fanout (by decide)]
    exact ⟨len, items, dirty nodup, engine⟩
  | downgrade s => exact k
  | trans _ _ ih ih' => exact ih' (ih k)

/-- The engine set to what it takes up of the end of a sound queue is sound. -/
theorem State.setEngine_takesSound {s u : State} {l : List TakeRecord} (nodup : (s.gather.dirty.map Prod.fst).Nodup)
    (len : l.length ≤ Config.takeQueueMax) (items : ∀ r ∈ l, r.changes ≠ []) :
    (s.setEngine (u.takeUp l)).TakesSound := by
  obtain ⟨suffix, engine⟩ := u.takeUp_spec l
  exact ⟨Nat.le_trans suffix.length_le len, fun r hr => items r (suffix.subset hr), nodup, engine⟩

theorem State.advance_takesSound {s : State} (x : Fanout) (k : s.TakesSound) : (s.advance x).TakesSound := by
  obtain ⟨len, items, nodup, _⟩ := k
  unfold State.advance
  split
  · exact s.setEngine_takesSound (u := s) (l := []) nodup (Nat.zero_le _) (by simp)
  · rename_i r rest hq
    rw [hq] at len items
    have busy : ∀ y : Fanout, ({ s with fanout := some y } : State).TakesSound := fun y =>
      ⟨by rwa [hq], by rwa [hq], nodup, by simp [hq]⟩
    have next := s.setEngine_takesSound (u := s) (l := rest) nodup (Nat.le_of_succ_le len)
      (fun y hy => items y (List.mem_cons_of_mem _ hy))
    split
    · split
      · exact busy _
      · split
        · exact busy _
        · exact next
    · exact next

theorem State.crosspointVisit_takesSound {s : State} (k : s.TakesSound) : s.crosspointVisit.TakesSound := by
  unfold State.crosspointVisit
  split
  · split
    · exact State.advance_takesSound _ ((s.visitCrosspoint_only ..).takesSound (by decide) (by decide) k)
    · exact State.advance_takesSound _ k
  · exact k

theorem State.nameVisit_takesSound {s : State} (k : s.TakesSound) : s.nameVisit.TakesSound := by
  unfold State.nameVisit
  split
  · split
    · exact State.advance_takesSound _ ((s.visitName_only _).takesSound (by decide) (by decide) k)
    · exact State.advance_takesSound _ k
  · exact k

/-- The close adds one record to a queue with space, or none (R99, R102). -/
theorem State.closeGather_takesSound {s : State} (space : s.gather.takeQueue.length < Config.takeQueueMax)
    (k : s.TakesSound) : s.closeGather.TakesSound := by
  obtain ⟨len, items, _, engine⟩ := k
  unfold State.closeGather
  dsimp only
  split
  · exact ⟨len, items, List.nodup_nil, engine⟩
  · rename_i some_change
    have added : ∀ r : TakeRecord, r.changes ≠ [] → (s.gather.takeQueue ++ [r]).length ≤ Config.takeQueueMax ∧
        ∀ x ∈ s.gather.takeQueue ++ [r], x.changes ≠ [] := by
      intro r hr
      refine ⟨by simpa using space, fun x hx => ?_⟩
      rcases List.mem_append.mp hx with hx | hx
      · exact items x hx
      · rwa [List.mem_singleton.mp hx]
    obtain ⟨len', items'⟩ := added { number := s.frame.count, changes := s.closeChanges } some_change
    split
    · rename_i busy
      exact ⟨len', items', List.nodup_nil, by simp [busy]⟩
    · exact State.setEngine_takesSound List.nodup_nil len' items'

theorem State.switchPoint_takesSound {s : State} (k : s.TakesSound) : s.switchPoint.TakesSound := by
  have gathered : ∀ t : State, t.TakesSound → t.gatherSwitchPoint.TakesSound := by
    intro t h
    unfold State.gatherSwitchPoint
    split
    · exact t.closeGather_takesSound ‹_› h
    · exact h
  have channels : ∀ (l : List Nat) (t : State), t.TakesSound → (l.foldl State.channelSwitchPoint t).TakesSound :=
    fun l t h => (State.Moves.foldl (fs := []) _ (fun t c => t.channelEvent_moves ..) l t).takesSound (by simp) (by simp) h
  have counted : ({ s with frame := { s.frame with count := s.frame.count + 1 } } : State).TakesSound := k
  unfold State.switchPoint
  exact channels _ _ (gathered _ counted)

theorem State.Switched.takesSound {s t : State} (h : s.Switched t) (k : s.TakesSound) : t.TakesSound := by
  obtain ⟨u, hu, _, ht, _⟩ := h
  exact ht.takesSound (by decide) (by decide)
    (State.switchPoint_takesSound (hu.takesSound (by decide) (by decide) k))

/-! ### Shadow entries (R6) -/

theorem State.actOnWord_shadow (s : State) (a : WordAddr) (f : Quality Route → Quality Route)
    (g : Quality (BitVec 32) → Quality (BitVec 32)) :
    (s.actOnWord a f g).shadow = if s.live then s.shadow.update s.straps a f g else s.shadow := by
  unfold State.actOnWord
  split
  · exact (State.reportChanges_only ..).shadow (by decide)
  · rfl

theorem Shadow.get_update_crosspoints (sh : Shadow) (p : Straps) (a : WordAddr) (f : Quality Route → Quality Route)
    (g : Quality (BitVec 32) → Quality (BitVec 32)) (j : Nat) :
    Table.get .unknown (sh.update p a f g).crosspoints j =
      if p.xpOffset a = some j then f (Table.get .unknown sh.crosspoints j) else Table.get .unknown sh.crosspoints j := by
  unfold Shadow.update
  split
  · rename_i o ho
    rw [Table.get_set, ho]
    by_cases hj : o = j
    · subst hj
      simp
    · simp [hj]
  · rename_i ho
    simp [ho]

theorem Shadow.get_update_names (sh : Shadow) (p : Straps) (a : WordAddr) (f : Quality Route → Quality Route)
    (g : Quality (BitVec 32) → Quality (BitVec 32)) (j : Nat) :
    Table.get .unknown (sh.update p a f g).names j =
      if p.nameOffset a = some j then g (Table.get .unknown sh.names j) else Table.get .unknown sh.names j := by
  unfold Shadow.update
  dsimp only
  split
  · rename_i o ho
    rw [Table.get_set, ho]
    by_cases hj : o = j
    · subst hj
      simp
    · simp [hj]
  · rename_i ho
    simp [ho]

/-- A tracker event acts on the crosspoint entry of its word, and on no other, and only while the tracker is live (R8). -/
theorem State.crosspointQuality_actOnWord (s : State) (a : WordAddr) (f : Quality Route → Quality Route)
    (g : Quality (BitVec 32) → Quality (BitVec 32)) (j : Nat) :
    (s.actOnWord a f g).crosspointQuality j =
      if s.live = true ∧ s.straps.xpOffset a = some j then f (s.crosspointQuality j) else s.crosspointQuality j := by
  rw [State.crosspointQuality, State.actOnWord_shadow]
  cases s.live
  · simp [State.crosspointQuality]
  · simp [Shadow.get_update_crosspoints, State.crosspointQuality]

/-- A tracker event acts on the name entry of its word, and on no other, and only while the tracker is live (R8). -/
theorem State.nameQuality_actOnWord (s : State) (a : WordAddr) (f : Quality Route → Quality Route)
    (g : Quality (BitVec 32) → Quality (BitVec 32)) (j : Nat) :
    (s.actOnWord a f g).nameQuality j =
      if s.live = true ∧ s.straps.nameOffset a = some j then g (s.nameQuality j) else s.nameQuality j := by
  rw [State.nameQuality, State.actOnWord_shadow]
  cases s.live
  · simp [State.nameQuality]
  · simp [Shadow.get_update_names, State.nameQuality]

theorem Straps.xpOffset_lt {p : Straps} {a : WordAddr} {o : Nat} (h : p.xpOffset a = some o) : o < p.xpLen := by
  unfold Straps.xpOffset at h
  split at h
  · injection h
    omega
  · cases h

theorem Straps.nameOffset_lt {p : Straps} {a : WordAddr} {o : Nat} (h : p.nameOffset a = some o) : o < p.nameLen := by
  unfold Straps.nameOffset at h
  split at h
  · injection h
    omega
  · cases h

@[simp] theorem Shadow.get_downgrade_crosspoints (sh : Shadow) (o : Nat) :
    Table.get .unknown sh.downgrade.crosspoints o = (Table.get .unknown sh.crosspoints o).downgrade :=
  Table.get_map _ _ rfl _ _

@[simp] theorem Shadow.get_downgrade_names (sh : Shadow) (o : Nat) :
    Table.get .unknown sh.downgrade.names o = (Table.get .unknown sh.names o).downgrade :=
  Table.get_map _ _ rfl _ _

theorem State.ShadowInRegions.congr {s t : State} (shadow : t.shadow = s.shadow) (straps : t.straps = s.straps)
    (h : s.ShadowInRegions) : t.ShadowInRegions := by
  simpa only [State.ShadowInRegions, State.crosspointQuality, State.nameQuality, shadow, straps] using h

theorem State.shadowInRegions_of_empty {s : State} (h : s.shadow = { crosspoints := [], names := [] }) :
    s.ShadowInRegions := by
  constructor <;> intro o _
  · rw [State.crosspointQuality, h]
    rfl
  · rw [State.nameQuality, h]
    rfl

/-- A tracker event has a word of the region to act on. -/
theorem State.actOnWord_shadowInRegions {s : State} (a : WordAddr) (f : Quality Route → Quality Route)
    (g : Quality (BitVec 32) → Quality (BitVec 32)) (h : s.ShadowInRegions) : (s.actOnWord a f g).ShadowInRegions := by
  rw [State.ShadowInRegions, (s.actOnWord_only a f g).straps (by decide)]
  refine ⟨fun o ho => ?_, fun o ho => ?_⟩
  · rw [State.crosspointQuality_actOnWord, if_neg, h.1 o ho]
    exact fun hw => absurd (Straps.xpOffset_lt hw.2) (Nat.not_lt.mpr ho)
  · rw [State.nameQuality_actOnWord, if_neg, h.2 o ho]
    exact fun hw => absurd (Straps.nameOffset_lt hw.2) (Nat.not_lt.mpr ho)

theorem State.downgrade_shadowInRegions {s : State} (h : s.ShadowInRegions) :
    ({ s with shadow := s.shadow.downgrade } : State).ShadowInRegions := by
  refine ⟨fun o ho => ?_, fun o ho => ?_⟩
  · rw [State.crosspointQuality, Shadow.get_downgrade_crosspoints,
      show Table.get .unknown s.shadow.crosspoints o = .unknown from h.1 o ho]
    rfl
  · rw [State.nameQuality, Shadow.get_downgrade_names, show Table.get .unknown s.shadow.names o = .unknown from h.2 o ho]
    rfl

theorem State.Moves.shadowInRegions {fs : List Field} {s t : State} (h : s.Moves fs t) (hs : Field.shadow ∉ fs)
    (hp : Field.straps ∉ fs) (k : s.ShadowInRegions) : t.ShadowInRegions := by
  induction h with
  | off h => exact k.congr (h.shadow hs) (h.straps hp)
  | chan s c ch => exact k
  | chans s f => exact k
  | fault s k' o l => exact k
  | word s a f g => exact State.actOnWord_shadowInRegions a f g k
  | downgrade s => exact State.downgrade_shadowInRegions k
  | trans _ _ ih ih' => exact ih' (ih k)

/-! ### Canonical form of the tables -/

/-- The shadow, the fault classes and the channel units are kept in canonical form. -/
def State.TablesWf (s : State) : Prop :=
  Table.wf Quality.unknown s.shadow.crosspoints ∧ Table.wf Quality.unknown s.shadow.names ∧
    Table.wf ClassState.clear s.faults ∧ Table.wf Channel.reset s.chans

theorem Shadow.update_wf {sh : Shadow} (p : Straps) (a : WordAddr) (f : Quality Route → Quality Route)
    (g : Quality (BitVec 32) → Quality (BitVec 32)) (hc : Table.wf Quality.unknown sh.crosspoints)
    (hn : Table.wf Quality.unknown sh.names) :
    Table.wf Quality.unknown (sh.update p a f g).crosspoints ∧ Table.wf Quality.unknown (sh.update p a f g).names := by
  unfold Shadow.update
  constructor <;> dsimp only
  · split
    · exact Table.wf_set _ _ hc
    · exact hc
  · split
    · exact Table.wf_set _ _ hn
    · exact hn

theorem Quality.downgrade_eq_unknown {α : Type} (q : Quality α) (h : q.downgrade = .unknown) : q = .unknown := by
  cases q <;> simp_all [Quality.downgrade]

theorem State.Only.tablesWf {fs : List Field} {s t : State} (h : s.Only fs t) (hs : Field.shadow ∉ fs)
    (hf : Field.faults ∉ fs) (hc : Field.chans ∉ fs) (k : s.TablesWf) : t.TablesWf := by
  rw [State.TablesWf, h.shadow hs, h.faults hf, h.chans hc]
  exact k

theorem State.Moves.tablesWf {fs : List Field} {s t : State} (h : s.Moves fs t) (hs : Field.shadow ∉ fs)
    (hf : Field.faults ∉ fs) (hc : Field.chans ∉ fs) (k : s.TablesWf) : t.TablesWf := by
  induction h with
  | off h => exact h.tablesWf hs hf hc k
  | chan s c ch =>
    obtain ⟨crosspoints, names, faults, chans⟩ := k
    exact ⟨crosspoints, names, faults, Table.wf_set _ _ chans⟩
  | chans s f =>
    obtain ⟨crosspoints, names, faults, _⟩ := k
    exact ⟨crosspoints, names, faults, Table.wf_tabulate ..⟩
  | fault s k' o l =>
    obtain ⟨crosspoints, names, faults, chans⟩ := k
    refine ⟨crosspoints, names, ?_, chans⟩
    unfold State.recordFault
    dsimp only
    exact Table.wf_set _ _ faults
  | word s a f g =>
    obtain ⟨crosspoints, names, faults, chans⟩ := k
    have frame := s.actOnWord_only a f g
    rw [State.TablesWf, State.actOnWord_shadow, frame.faults (by decide), frame.chans (by decide)]
    split
    · obtain ⟨crosspoints', names'⟩ := Shadow.update_wf s.straps a f g crosspoints names
      exact ⟨crosspoints', names', faults, chans⟩
    · exact ⟨crosspoints, names, faults, chans⟩
  | downgrade s =>
    obtain ⟨crosspoints, names, faults, chans⟩ := k
    exact ⟨Table.wf_map _ Quality.downgrade_eq_unknown crosspoints, Table.wf_map _ Quality.downgrade_eq_unknown names,
      faults, chans⟩
  | trans _ _ ih ih' => exact ih' (ih k)

theorem Table.wf_nil {α : Type} (d : α) : Table.wf d [] := ⟨.nil, by simp⟩

theorem State.sampled_tablesWf (s : State) (pins : Pins) : (s.sampled pins).TablesWf :=
  ⟨Table.wf_nil _, Table.wf_nil _, Table.wf_nil _, Table.wf_tabulate ..⟩

theorem State.softReset_tablesWf (s : State) : s.softReset.TablesWf :=
  (State.restartSweep_only _).tablesWf (by decide) (by decide) (by decide)
    ⟨Table.wf_nil _, Table.wf_nil _, Table.wf_nil _, Table.wf_tabulate ..⟩

/-- A valid STATUS leaves the tile records (R157 to R165). -/
theorem Channel.onStatus_tiles (ch : Channel) (halted : Bool) (now : Nat) (r : StatusRecord) :
    (ch.onStatus halted now r).1.tiles = ch.tiles := by
  have compared : ∀ x : Channel, (x.compare r).1.tiles = x.tiles := by
    intro x
    obtain ⟨stale, m, f, c, h, _⟩ := x.compare_spec r
    rw [h]
  unfold Channel.onStatus
  dsimp only
  split
  · rfl
  · split <;> rfl
  · split <;> rfl
  · rfl
  · exact compared _

theorem Channel.slotDecision_tilesWf (ch : Channel) (label : TileState → List Byte) (now : Nat)
    (h : Table.wf Tile.reset ch.tiles) : Table.wf Tile.reset (ch.slotDecision label now).tiles :=
  Channel.slotDecision_keeps (P := fun x => Table.wf Tile.reset x.tiles) label now
    (drop := fun _ _ _ _ h => h) (complete := fun _ h => h)
    (refresh := fun _ _ _ _ h => Table.wf_set _ _ h) (change := fun _ _ _ _ h => Table.wf_set _ _ h) ch h

/-- Every action on a channel keeps its tile records in canonical form. -/
theorem Channel.tilesWf_kept : Channel.Kept (fun _ => True) (fun _ ch => Table.wf Tile.reset ch.tiles) where
  slot _ _ := trivial
  assigned _ _ _ _ _ := trivial
  reset := Table.wf_nil _
  stop _ _ _ _ := Table.wf_tabulate ..
  decide _ ch label now h := ch.slotDecision_tilesWf label now h
  append _ ch t b _ _ h := by
    unfold Channel.append
    split <;> exact h
  tile _ _ _ _ _ h := Table.wf_set _ _ h
  account _ ch _ h := by
    unfold Channel.account
    split <;> exact h
  tick _ ch _ h := by
    unfold Channel.countTick
    split
    · split <;> exact h
    · exact h
  pendFrame _ _ _ _ h := h
  helloCount _ _ _ _ h := h
  pendHello _ _ h := h
  frame _ _ _ _ _ h := h
  hello _ _ _ _ h := h
  free _ _ h := h
  receiver _ _ _ _ _ h := h
  status halted ch now r h := by rwa [Channel.onStatus_tiles]
  start ch now h := by
    unfold Channel.start
    split <;> exact h
  tc _ _ _ _ h := h
  budget _ _ _ _ h := h
  interval _ _ _ h := h
  options _ ch v b h := by
    obtain ⟨st, ti, rx, er, wire, hv, _⟩ := ch.setOptions_spec v b
    rwa [hv]
  soft _ _ _ _ := Table.wf_tabulate ..

theorem State.canonical_iff {s : State} :
    s.Canonical ↔ s.TablesWf ∧ ∀ c, c < Config.channels → Table.wf Tile.reset (s.chan c).tiles := by
  simp only [State.Canonical, State.TablesWf, and_assoc]

end Sys2Proof.Machine
end

section
/-! The bounds of the stores through every command and every step. For each condition the commands that change what it reads
are named; every other command leaves it by its frame (`exec_moves`). -/

namespace Sys2Proof.Machine

/-- An event that happens only under a condition, for a condition on states that it keeps. -/
theorem keeps_guarded {P : State → Prop} {s t : State} (b : Prop) [Decidable b] (h : P t) (e : P s) :
    P (if b then t else s) := by
  split
  · exact h
  · exact e

theorem exec_busSound {c : Instr} {s t : State} (hx : exec c s = .next t) (b : s.BusSound) : t.BusSound := by
  have frame := exec_only hx
  have settled : ∀ u : State, u.BusSound → (s.settle u).BusSound := fun u h =>
    (s.settle_only u).busSound (by decide) (by decide) h
  cases c <;> injection hx with hx <;> subst hx
  case rstnFall => exact keeps_guarded _ ⟨Nat.zero_le _, fun _ => rfl, fun h => by cases h⟩ b
  case rstnRise pins =>
    split
    · exact b
    · exact s.riseWith_busSound pins
  case issue => exact keeps_guarded _ (settled _ (State.issue_busSound b)) b
  case readCompletion x y => exact keeps_guarded _ (settled _ (State.readCompletes_busSound x y b)) b
  case writeCompletion => exact keeps_guarded _ (settled _ (State.writeCompletes_busSound b)) b
  case memoryTimeout => exact keeps_guarded _ (settled _ (State.memoryTimesOut_busSound b)) b
  case loanRequest => exact State.loanAsked_busSound b
  case loanGrant => exact keeps_guarded _ (State.grantIfDrained_keeps_busSound b) b
  case loanEnd | loanWithdrawal => exact State.loanDropped_busSound b
  case softReset => exact keeps_guarded _ (State.runCommand_keeps (fun _ _ h => h) _ _ (State.softReset_busSound b) b) b
  all_goals exact frame.busSound (by simp [Instr.free]) (by simp [Instr.free]) b

theorem exec_queuesWithinDepth {c : Instr} {s t : State} (hx : exec c s = .next t) (q : s.QueuesWithinDepth) :
    t.QueuesWithinDepth := by
  have frame := exec_only hx
  have settled : ∀ u : State, s.Served u → u.straps = s.straps → (s.settle u).QueuesWithinDepth := fun u h hs =>
    State.settle_queues (h.queues hs q)
  cases c <;> injection hx with hx <;> subst hx
  case rstnFall => exact keeps_guarded _ ⟨Nat.zero_le _, Nat.zero_le _⟩ q
  case rstnRise pins =>
    split
    · exact q
    · exact (s.riseWith_moves pins).only.queues (by decide) (by decide) (by decide) ⟨Nat.zero_le _, Nat.zero_le _⟩
  case controlRequest p r => exact keeps_guarded _ (State.presentRequest_queues p r (State.takePresented_queues p q)) q
  case waitTimeout p =>
    exact keeps_guarded _ (settled _ (s.expireWait_served p) ((s.expireWait_only p).straps (by decide))) q
  case issue => exact keeps_guarded _ (settled _ s.issue_served (s.issue_only.straps (by decide))) q
  case readCompletion x y =>
    exact keeps_guarded _ (settled _ (s.readCompletes_served x y) ((s.readCompletes_only x y).straps (by decide))) q
  case writeCompletion =>
    exact keeps_guarded _ (settled _ s.writeCompletes_served (s.writeCompletes_only.straps (by decide))) q
  case memoryTimeout =>
    exact keeps_guarded _ (settled _ s.memoryTimesOut_served (s.memoryTimesOut_only.straps (by decide))) q
  all_goals exact frame.queues (by simp [Instr.free]) (by simp [Instr.free]) (by simp [Instr.free]) q

theorem exec_requestsInTurn {c : Instr} {s t : State} (hx : exec c s = .next t) (turn : s.RequestsInTurn) :
    t.RequestsInTurn := by
  have frame := exec_only hx
  have empty : ∀ u : State, u.portA = Port.reset → u.portB = Port.reset → u.RequestsInTurn := by
    intro u ha hb p _
    cases p
    · exact congrArg Port.presented ha
    · exact congrArg Port.presented hb
  cases c <;> injection hx with hx <;> subst hx
  case rstnFall => exact keeps_guarded _ (empty _ rfl rfl) turn
  case rstnRise pins =>
    split
    · exact turn
    · exact (s.riseWith_moves pins).only.requestsInTurn (by decide) (by decide) (empty _ rfl rfl)
  case controlRequest p r =>
    exact keeps_guarded _
      (State.presentRequest_requestsInTurn p r (State.takePresented_requestsInTurn p turn)) turn
  case waitTimeout p => exact keeps_guarded _ ((s.expireWait_served p).settled turn) turn
  case issue => exact keeps_guarded _ (s.issue_served.settled turn) turn
  case readCompletion x y => exact keeps_guarded _ ((s.readCompletes_served x y).settled turn) turn
  case writeCompletion => exact keeps_guarded _ (s.writeCompletes_served.settled turn) turn
  case memoryTimeout => exact keeps_guarded _ (s.memoryTimesOut_served.settled turn) turn
  all_goals exact frame.requestsInTurn (by simp [Instr.free]) (by simp [Instr.free]) turn

theorem exec_fetchSound {c : Instr} {s t : State} (hx : exec c s = .next t) (f : s.FetchSound) : t.FetchSound := by
  have frame := exec_only hx
  have settled : ∀ u : State, u.FetchSound → (s.settle u).FetchSound := fun u h =>
    (s.settle_only u).fetchSound (by decide) (by decide) h
  cases c <;> injection hx with hx <;> subst hx
  case rstnFall => exact keeps_guarded _ ⟨Nat.zero_le _, List.nodup_nil, Nat.zero_le _⟩ f
  case rstnRise pins =>
    split
    · exact f
    · exact s.riseWith_fetchSound pins
  case selftestCompletion pass => exact keeps_guarded _ (State.endStartUp_fetchSound pass f) f
  case issue => exact keeps_guarded _ (settled _ (State.issue_fetchSound f)) f
  case readCompletion x y => exact keeps_guarded _ (settled _ (State.readCompletes_fetchSound x y f)) f
  case writeCompletion => exact keeps_guarded _ (settled _ (State.writeCompletes_fetchSound f)) f
  case memoryTimeout => exact keeps_guarded _ (settled _ (State.memoryTimesOut_fetchSound f)) f
  case loanEnd | loanWithdrawal => exact State.loanDropped_fetchSound f
  case resync => exact keeps_guarded _ (State.runCommand_keeps (fun _ _ h => h) _ _ (State.runResync_fetchSound f) f) f
  case softReset =>
    exact keeps_guarded _ (State.runCommand_keeps (fun _ _ h => h) _ _ (State.softReset_fetchSound f) f) f
  all_goals exact frame.fetchSound (by simp [Instr.free]) (by simp [Instr.free]) f

theorem exec_takesSound {c : Instr} {s t : State} (hx : exec c s = .next t) (k : s.TakesSound) : t.TakesSound := by
  have moves := exec_moves hx
  have empty : ∀ u : State, u.gather.dirty = [] → u.gather.takeQueue = [] → u.fanout = none → u.TakesSound := by
    intro u hd hq hf
    simp [State.TakesSound, hd, hq, hf]
  cases c <;> injection hx with hx <;> subst hx
  case rstnFall => exact keeps_guarded _ (empty _ rfl rfl rfl) k
  case rstnRise pins =>
    split
    · exact k
    · exact (s.riseWith_moves pins).takesSound (by decide) (by decide) (empty _ rfl rfl rfl)
  case selftestCompletion pass =>
    exact keeps_guarded _ ((State.endStartUp_moves _ pass).takesSound (by decide) (by decide)
      (empty _ rfl rfl rfl)) k
  case refinPulse =>
    refine keeps_guarded _ ?_ k
    rcases s.pulse_cases with quiet | switched
    · exact quiet.takesSound (by decide) (by decide) k
    · exact switched.takesSound k
  case freeRunningSwitchPoint => exact keeps_guarded _ (s.freeRun_switched.takesSound k) k
  case windowExpiry => exact keeps_guarded _ (s.flywheel_switched.takesSound k) k
  case crosspointVisit => exact keeps_guarded _ (State.crosspointVisit_takesSound k) k
  case nameChangeVisit => exact keeps_guarded _ (State.nameVisit_takesSound k) k
  case softReset =>
    have stores : s.softReset.TakesSound := (State.restartSweep_only _).takesSound (by decide) (by decide)
      (empty _ rfl rfl rfl)
    exact keeps_guarded _ (State.runCommand_keeps (fun _ _ h => h) _ _ stores k) k
  all_goals exact moves.takesSound (by simp [Instr.free]) (by simp [Instr.free]) k

theorem exec_shadowInRegions {c : Instr} {s t : State} (hx : exec c s = .next t) (k : s.ShadowInRegions) :
    t.ShadowInRegions := by
  have moves := exec_moves hx
  cases c <;> injection hx with hx <;> subst hx
  case rstnFall => exact keeps_guarded _ (State.shadowInRegions_of_empty rfl) k
  case rstnRise pins =>
    split
    · exact k
    · exact (s.riseWith_moves pins).shadowInRegions (by decide) (by decide) (State.shadowInRegions_of_empty rfl)
  case selftestCompletion pass =>
    exact keeps_guarded _ ((State.endStartUp_moves _ pass).shadowInRegions (by decide) (by decide)
      (State.shadowInRegions_of_empty rfl)) k
  case softReset =>
    have stores : s.softReset.ShadowInRegions :=
      State.shadowInRegions_of_empty ((State.restartSweep_only _).shadow (by decide))
    exact keeps_guarded _ (State.runCommand_keeps (fun _ _ h => h.congr rfl rfl) _ _ stores k) k
  all_goals exact moves.shadowInRegions (by simp [Instr.free]) (by simp [Instr.free]) k

theorem exec_tablesWf {c : Instr} {s t : State} (hx : exec c s = .next t) (k : s.TablesWf) : t.TablesWf := by
  have moves := exec_moves hx
  obtain ⟨crosspoints, names, faults, chans⟩ := id k
  cases c <;> injection hx with hx <;> subst hx
  case rstnFall => exact keeps_guarded _ ⟨Table.wf_nil _, Table.wf_nil _, Table.wf_nil _, Table.wf_nil _⟩ k
  case rstnRise pins =>
    split
    · exact k
    · exact (s.riseWith_moves pins).tablesWf (by decide) (by decide) (by decide) (s.sampled_tablesWf pins)
  case selftestCompletion pass =>
    exact keeps_guarded _ ((State.endStartUp_moves _ pass).tablesWf (by decide) (by decide) (by decide)
      ⟨Table.wf_nil _, Table.wf_nil _, faults, chans⟩) k
  case clearEvents m =>
    exact keeps_guarded _ (State.runCommand_keeps (fun _ _ h => h) _ _
      ⟨crosspoints, names, Table.wf_tabulate .., chans⟩ k) k
  case softReset => exact keeps_guarded _ (State.runCommand_keeps (fun _ _ h => h) _ _ s.softReset_tablesWf k) k
  all_goals exact moves.tablesWf (by simp [Instr.free]) (by simp [Instr.free]) (by simp [Instr.free]) k

theorem exec_canonical {c : Instr} {s t : State} (hx : exec c s = .next t) (k : s.Canonical) : t.Canonical := by
  obtain ⟨tables, tiles⟩ := State.canonical_iff.mp k
  exact State.canonical_iff.mpr ⟨exec_tablesWf hx tables, exec_each Channel.tilesWf_kept hx tiles⟩

theorem State.Moves.canonical {fs : List Field} {s t : State} (h : s.Moves fs t) (hs : Field.shadow ∉ fs)
    (hf : Field.faults ∉ fs) (hc : Field.chans ∉ fs) (chan : ∀ c, t.chan c = s.chan c) (k : s.Canonical) :
    t.Canonical := by
  obtain ⟨tables, tiles⟩ := State.canonical_iff.mp k
  refine State.canonical_iff.mpr ⟨h.tablesWf hs hf hc tables, fun c hlt => ?_⟩
  rw [chan]
  exact tiles c hlt

/-- Settles O56: each condition by the principle `step_keeps`, from its rule for a command, for the taking of what stands
presented, and for the passing of time. -/
theorem storesStaySound : Obligations.StoresStaySound := by
  intro s t hs
  have taken := fun (u : State) p => u.takePresented_only p
  refine ⟨fun b => ?bus, fun q => ?queues, fun f => ?fetch, fun k => ?takes, fun k => ?canonical, fun r => ?turn,
    fun k => ?regions⟩
  case bus =>
    exact step_keeps (P := State.BusSound) (fun _ _ _ hx => exec_busSound hx)
      (fun u p => (taken u p).busSound (by decide) (by decide)) (fun _ _ h => h.busSound (by decide) (by decide)) hs b
  case queues =>
    exact step_keeps (P := State.QueuesWithinDepth) (fun _ _ _ hx => exec_queuesWithinDepth hx)
      (fun u p => u.takePresented_queues p) (fun _ _ h => h.queues (by decide) (by decide) (by decide)) hs q
  case fetch =>
    exact step_keeps (P := State.FetchSound) (fun _ _ _ hx => exec_fetchSound hx)
      (fun u p => (taken u p).fetchSound (by decide) (by decide)) (fun _ _ h => h.fetchSound (by decide) (by decide)) hs f
  case takes =>
    exact step_keeps (P := State.TakesSound) (fun _ _ _ hx => exec_takesSound hx)
      (fun u p => (taken u p).takesSound (by decide) (by decide)) (fun _ _ h => h.takesSound (by decide) (by decide)) hs k
  case canonical =>
    exact step_keeps (P := State.Canonical) (fun _ _ _ hx => exec_canonical hx)
      (fun u p => (u.takePresented_moves p).canonical (by decide) (by decide) (by decide) ((taken u p).chan (by decide)))
      (fun _ _ h => (State.Moves.off h).canonical (by decide) (by decide) (by decide) (h.chan (by decide))) hs k
  case turn =>
    exact step_keeps (P := State.RequestsInTurn) (fun _ _ _ hx => exec_requestsInTurn hx)
      (fun u p => u.takePresented_requestsInTurn p) (fun _ _ h => h.requestsInTurn (by decide) (by decide)) hs r
  case regions =>
    exact step_keeps (P := State.ShadowInRegions) (fun _ _ _ hx => exec_shadowInRegions hx)
      (fun u p => (u.takePresented_moves p).shadowInRegions (by decide) (by decide))
      (fun _ _ h k => k.congr (h.shadow (by decide)) (h.straps (by decide))) hs k

end Sys2Proof.Machine
end

section
/-! On-air values (R20, R98): the tracker's events report each tracked value they change with its before value, the downgrade
changes none, and only a switch point empties the dirty list. -/

namespace Sys2Proof.Machine

/-! ### The dirty list -/

/-- A pair added at the end is found where none before it names the entry. -/
theorem dirtyValue_append (l : List (Entry × Value)) (e x : Entry) (v : Value) :
    dirtyValue (l ++ [(e, v)]) x = (dirtyValue l x).or (if e = x then some v else none) := by
  induction l with
  | nil => rfl
  | cons p l ih =>
    obtain ⟨y, u⟩ := p
    simp only [List.cons_append, dirtyValue, ih]
    split <;> rfl

/-- A report gives its entry the before value, and no entry listed already another one (R96). -/
theorem State.dirtyValue_report (s : State) (e x : Entry) (v : Value) :
    dirtyValue (s.report e v).gather.dirty x = (dirtyValue s.gather.dirty x).or (if e = x then some v else none) := by
  unfold State.report
  split
  · rename_i u hu
    split
    · subst_vars
      simp [hu]
    · simp
  · exact dirtyValue_append ..

/-- The reports of an event: each entry of the word whose tracked value has changed is listed with its value before. -/
theorem State.dirtyValue_reportChanges (s old : State) (a : WordAddr) (x : Entry) :
    dirtyValue (s.reportChanges old a).gather.dirty x =
      (dirtyValue s.gather.dirty x).or
        (if x ∈ s.straps.entriesAt a ∧ s.tracked x ≠ old.tracked x then some (old.tracked x) else none) := by
  unfold State.reportChanges
  generalize s.straps.entriesAt a = l
  suffices h : ∀ acc : State,
      dirtyValue (l.foldl (fun acc e => if s.tracked e = old.tracked e then acc
        else acc.report e (old.tracked e)) acc).gather.dirty x =
      (dirtyValue acc.gather.dirty x).or
        (if x ∈ l ∧ s.tracked x ≠ old.tracked x then some (old.tracked x) else none) from h s
  intro acc
  induction l generalizing acc with
  | nil => simp
  | cons e l ih =>
    rw [List.foldl_cons, ih]
    by_cases same : s.tracked e = old.tracked e
    · rw [if_pos same]
      by_cases hx : x = e
      · subst hx
        simp [same]
      · simp [hx]
    · rw [if_neg same, State.dirtyValue_report]
      by_cases hx : x = e
      · subst hx
        cases dirtyValue acc.gather.dirty x <;> simp [same]
      · have hx' : e ≠ x := fun h => hx h.symm
        simp [hx, hx']

/-! ### Tracked values -/

theorem State.tracked_congr {s t : State} (shadow : t.shadow = s.shadow) (straps : t.straps = s.straps) (e : Entry) :
    t.tracked e = s.tracked e := by
  cases e <;> simp only [State.tracked, State.crosspointQuality, State.nameQuality, shadow, straps]

theorem State.onAir_congr {s t : State} (shadow : t.shadow = s.shadow) (straps : t.straps = s.straps)
    (dirty : t.gather.dirty = s.gather.dirty) (e : Entry) : t.onAir e = s.onAir e := by
  rw [State.onAir, State.onAir, dirty, State.tracked_congr shadow straps]

theorem State.Only.onAir {fs : List Field} {s t : State} (h : s.Only fs t) (hs : Field.shadow ∉ fs)
    (hp : Field.straps ∉ fs) (hg : Field.gather ∉ fs) (e : Entry) : t.onAir e = s.onAir e :=
  State.onAir_congr (h.shadow hs) (h.straps hp) (by rw [h.gather hg]) e

theorem Quality.presented_downgrade {α : Type} (q : Quality α) : q.downgrade.presented = q.presented := by
  cases q <;> rfl

/-- The downgrade keeps every held value, so no tracked value changes (R17). -/
theorem State.tracked_downgrade (s : State) (e : Entry) :
    ({ s with shadow := s.shadow.downgrade } : State).tracked e = s.tracked e := by
  cases e <;>
    simp only [State.tracked, State.crosspointQuality, State.nameQuality, Shadow.get_downgrade_crosspoints,
      Shadow.get_downgrade_names, Quality.presented_downgrade]

theorem Straps.mem_entriesAt (p : Straps) (a : WordAddr) (x : Entry) :
    x ∈ p.entriesAt a ↔ (∃ o, p.xpOffset a = some o ∧ x = .crosspoint (p.crosspointAt o)) ∨
      ∃ o, p.nameOffset a = some o ∧ x = .source (o / 2) := by
  unfold Straps.entriesAt
  cases p.xpOffset a <;> cases p.nameOffset a <;> simp

/-- The word of a crosspoint entry in range gives the entry back (R2). -/
theorem Straps.crosspointAt_offsetOf {p : Straps} {e : Crosspoint} (h : e.dest < p.dests) :
    p.crosspointAt (p.offsetOf e) = e := by
  have pos : 0 < p.dests := Nat.lt_of_le_of_lt (Nat.zero_le _) h
  simp only [Straps.crosspointAt, Straps.offsetOf]
  rw [Nat.mul_comm, Nat.mul_add_div pos, Nat.mul_add_mod, Nat.div_eq_of_lt h, Nat.mod_eq_of_lt h]
  rfl

/-- An update of a word's shadow entries changes no tracked value but its own entries'. -/
theorem State.tracked_update {s : State} {a : WordAddr} {e : Entry} (f : Quality Route → Quality Route)
    (g : Quality (BitVec 32) → Quality (BitVec 32)) (tracks : s.Tracks e) (h : e ∉ s.straps.entriesAt a) :
    ({ s with shadow := s.shadow.update s.straps a f g } : State).tracked e = s.tracked e := by
  rw [Straps.mem_entriesAt, not_or, not_exists, not_exists] at h
  obtain ⟨crosspoint, name⟩ := h
  cases e with
  | crosspoint x =>
    have other : s.straps.xpOffset a ≠ some (s.straps.offsetOf x) := fun ho =>
      crosspoint _ ⟨ho, by rw [Straps.crosspointAt_offsetOf tracks.2]⟩
    simp only [State.tracked, State.crosspointQuality, Shadow.get_update_crosspoints, if_neg other]
  | source n =>
    have other : ∀ o, o / 2 = n → s.straps.nameOffset a ≠ some o := fun o hn ho => name o ⟨ho, by rw [hn]⟩
    have first := other (2 * n) (by omega)
    have second := other (2 * n + 1) (by omega)
    simp only [State.tracked, State.nameQuality, Shadow.get_update_names, if_neg first, if_neg second]

/-! ### On-air values -/

/-- A tracker event reports what it changes, so the on-air values stand (R19, R96, R98). -/
theorem State.actOnWord_onAir {s : State} {e : Entry} (a : WordAddr) (f : Quality Route → Quality Route)
    (g : Quality (BitVec 32) → Quality (BitVec 32)) (tracks : s.Tracks e) :
    (s.actOnWord a f g).onAir e = s.onAir e := by
  unfold State.actOnWord
  split
  · generalize ht : ({ s with shadow := s.shadow.update s.straps a f g } : State) = t
    have straps : t.straps = s.straps := by rw [← ht]
    have gather : t.gather = s.gather := by rw [← ht]
    have untouched : e ∉ t.straps.entriesAt a → t.tracked e = s.tracked e := by
      rw [straps, ← ht]
      exact State.tracked_update f g tracks
    have frame := t.reportChanges_only s a
    rw [State.onAir, State.tracked_congr (frame.shadow (by decide)) (frame.straps (by decide)),
      State.dirtyValue_reportChanges, gather, State.onAir]
    cases dirtyValue s.gather.dirty e with
    | some v => rfl
    | none =>
      by_cases same : t.tracked e = s.tracked e
      · simp [same]
      · have listed : e ∈ t.straps.entriesAt a := by
          by_contra h
          exact same (untouched h)
        simp [same, listed]
  · rfl

theorem State.Tracks.congr {s t : State} {e : Entry} (h : s.Tracks e) (straps : t.straps = s.straps) : t.Tracks e := by
  unfold State.Tracks at *
  rwa [straps]

theorem State.Moves.onAir {fs : List Field} {s t : State} {e : Entry} (h : s.Moves fs t) (hs : Field.shadow ∉ fs)
    (hp : Field.straps ∉ fs) (hg : Field.gather ∉ fs) (tracks : s.Tracks e) : t.onAir e = s.onAir e := by
  induction h with
  | off h => exact h.onAir hs hp hg e
  | chan s c ch => rfl
  | chans s f => rfl
  | fault s k o l => rfl
  | word s a f g => exact State.actOnWord_onAir a f g tracks
  | downgrade s => rw [State.onAir, State.tracked_downgrade, State.onAir]
  | trans h _ ih ih' =>
    have straps := h.only.straps (by simpa using hp)
    rw [ih' (tracks.congr straps), ih tracks]

/-- A visit moves the fan-out engine and leaves the dirty list (R116 to R118). -/
theorem State.advance_dirty (s : State) (x : Fanout) : (s.advance x).gather.dirty = s.gather.dirty := by
  unfold State.advance
  split
  · rfl
  · split
    · split
      · rfl
      · split <;> rfl
    · rfl

theorem State.crosspointVisit_dirty (s : State) : s.crosspointVisit.gather.dirty = s.gather.dirty := by
  unfold State.crosspointVisit
  split
  · split
    · rw [State.advance_dirty, (s.visitCrosspoint_only ..).gather (by decide)]
    · exact s.advance_dirty _
  · rfl

theorem State.nameVisit_dirty (s : State) : s.nameVisit.gather.dirty = s.gather.dirty := by
  unfold State.nameVisit
  split
  · split
    · rw [State.advance_dirty, (s.visitName_only _).gather (by decide)]
    · exact s.advance_dirty _
  · rfl

/-- A switch point moves F (R91). -/
theorem State.Switched.count_ne {s t : State} (h : s.Switched t) : t.frame.count ≠ s.frame.count := by
  rw [h.count]
  intro same
  bv_omega

/-- Settles O59: outside switch points and resets the gather unit only hears reports, and each report keeps its entry's on-air
value; a switch point moves the frame count. -/
theorem onAirMovesOnlyAtSwitchPoints : Obligations.OnAirMovesOnlyAtSwitchPoints := by
  intro c s t e hx tracks notFall notRise notSelftest notSoft count
  have moves := exec_moves hx
  have visited : ∀ u : State, s.Only [.chans, .gather, .fanout] u → u.gather.dirty = s.gather.dirty →
      u.onAir e = s.onAir e := fun u o dirty =>
    State.onAir_congr (o.shadow (by decide)) (o.straps (by decide)) dirty e
  have paced : ∀ (b : Bool) (u : State), s.Switched u →
      (if b then u else s).frame.count = s.frame.count → (if b then u else s).onAir e = s.onAir e := by
    intro b u switched
    split
    · exact fun same => absurd same switched.count_ne
    · exact fun _ => rfl
  cases c <;> injection hx with hx <;> subst hx
  case rstnFall => exact absurd rfl notFall
  case rstnRise pins => exact absurd rfl (notRise pins)
  case selftestCompletion pass => exact absurd rfl (notSelftest pass)
  case softReset => exact absurd rfl notSoft
  case refinPulse =>
    rcases s.pulse_cases with quiet | switched
    · exact keeps_guarded (P := fun u => u.onAir e = s.onAir e) _
        (quiet.onAir (by decide) (by decide) (by decide) e) rfl
    · exact paced _ _ switched count
  case freeRunningSwitchPoint => exact paced _ _ s.freeRun_switched count
  case windowExpiry => exact paced _ _ s.flywheel_switched count
  case crosspointVisit =>
    exact keeps_guarded (P := fun u => u.onAir e = s.onAir e) _
      (visited _ s.crosspointVisit_only s.crosspointVisit_dirty) rfl
  case nameChangeVisit =>
    exact keeps_guarded (P := fun u => u.onAir e = s.onAir e) _
      (visited _ s.nameVisit_only s.nameVisit_dirty) rfl
  all_goals exact moves.onAir (by simp [Instr.free]) (by simp [Instr.free]) (by simp [Instr.free]) tracks

end Sys2Proof.Machine
end

section
/-! The downgrade of R17 where it is made, and the values after RSTN. -/

namespace Sys2Proof.Machine

/-! ### The downgrade (R17, R50, R176) -/

theorem Quality.downgrade_of_not_verified {α : Type} {q : Quality α} (h : ∀ v, q ≠ .verified v) : q.downgrade = q := by
  cases q with
  | verified v => exact absurd rfl (h v)
  | unknown => rfl
  | suspect => rfl
  | unverified v => rfl

/-- `t` has the shadow of `s` downgraded, with no tracked value changed and nothing reported (R17). -/
def State.Downgraded (s t : State) : Prop :=
  t.shadow = s.shadow.downgrade ∧ t.gather = s.gather ∧ ∀ e, t.tracked e = s.tracked e

theorem State.downgraded_of {s t : State} (shadow : t.shadow = s.shadow.downgrade) (straps : t.straps = s.straps)
    (gather : t.gather = s.gather) : s.Downgraded t := by
  refine ⟨shadow, gather, fun e => ?_⟩
  rw [← s.tracked_downgrade e]
  exact State.tracked_congr (s := { s with shadow := s.shadow.downgrade }) shadow straps e

/-- A request that finds the in-flight list empty is granted (R50). -/
theorem State.grantIfDrained_of_drained {s : State} (h : s.loan = .requested) (empty : s.memPort.inflight = []) :
    s.grantIfDrained = s.grantLoan := by
  rw [State.grantIfDrained, if_pos ⟨h, empty⟩]

/-- LOANREQ asserted with nothing in flight is granted in the same event (R49, R50). -/
theorem State.loanAsked_of_drained {s : State} (up : s.up = true) (h : s.loan = .none)
    (empty : s.memPort.inflight = []) :
    s.loanAsked = ({ s with loanReq := true, loan := .requested } : State).grantLoan := by
  have raised : ({ s with loanReq := true } : State).up = true := up
  rw [State.loanAsked, if_pos ⟨raised, h⟩]
  exact State.grantIfDrained_of_drained rfl empty

theorem State.runResync_eq {s : State} (h : s.device ≠ .selftest) :
    s.runResync.1 = ({ s with shadow := s.shadow.downgrade } : State).restartSweep := by
  rw [State.runResync, if_neg h]

/-- Settles O25. -/
theorem downgradeKeepsTrackedValues : Obligations.DowngradeKeepsTrackedValues := by
  intro s
  refine ⟨fun o h hv => ?_, fun o hv => ?_, fun o h hv => ?_, fun o hv => ?_, fun up none empty => ?request,
    fun asked empty => ?grant, fun awaits device => ?resync⟩
  · rw [Shadow.get_downgrade_crosspoints, show Table.get .unknown s.shadow.crosspoints o = .verified h from hv]
    rfl
  · rw [Shadow.get_downgrade_crosspoints]
    exact Quality.downgrade_of_not_verified hv
  · rw [Shadow.get_downgrade_names, show Table.get .unknown s.shadow.names o = .verified h from hv]
    rfl
  · rw [Shadow.get_downgrade_names]
    exact Quality.downgrade_of_not_verified hv
  case request =>
    refine ⟨s.loanAsked, rfl, ?_⟩
    rw [State.loanAsked_of_drained up none empty]
    exact ⟨rfl, State.downgraded_of rfl rfl rfl⟩
  case grant =>
    rw [State.grantIfDrained_of_drained asked empty]
    exact ⟨rfl, State.downgraded_of rfl rfl rfl⟩
  case resync =>
    have frame := ({ s with shadow := s.shadow.downgrade } : State).restartSweep_only
    refine ⟨State.replied s.runResync.1 [0x40] s.runResync.2, ?_, ?_⟩
    · rw [← State.runCommand_awaits awaits]
      simp only [exec, execResync, awaits.1, if_true]
    · rw [State.runResync_eq device]
      exact State.downgraded_of (frame.shadow (by decide)) (frame.straps (by decide)) (frame.gather (by decide))

/-! ### The reset state (R18, R35, R47, R54, R69, R81, R94, R107, R123, R138, R158, R174) -/

/-- With no channel unit listed, each one is as RSTN leaves it. -/
theorem State.reset_chan (c : Nat) : State.reset.chan c = Channel.reset := rfl

theorem State.reset_classState (n : Nat) : State.reset.classState n = ClassState.clear := rfl

theorem State.reset_quality (o : Nat) :
    State.reset.crosspointQuality o = .unknown ∧ State.reset.nameQuality o = .unknown := ⟨rfl, rfl⟩

theorem State.reset_port (p : PortId) : State.reset.port p = Port.reset := by
  cases p <;> rfl

/-- Settles O5. -/
theorem resetValues : Obligations.ResetValues := by
  refine ⟨State.reset_port, rfl, rfl, State.reset_quality, rfl, State.reset_classState, rfl, rfl, rfl, rfl, rfl, rfl,
    fun c => ?_, fun c t => ?_⟩
  · rw [State.reset_chan]
    decide
  · rw [State.reset_chan]
    rfl

end Sys2Proof.Machine
end

section
/-! The tracker's events on a word, each with what it leaves: the snoop of a write (R9 to R12), a completed read (R14 to R16) and
an abandoned access (R13, R44), with the re-read list they share (R65, R66). -/

namespace Sys2Proof.Machine

/-! ### The re-read list -/

/-- A word on the list keeps its place (R65). -/
theorem State.addReread_listed {s : State} {a : WordAddr} (h : a ∈ s.fetch.reread) : s.addReread a = s := by
  rw [State.addReread, if_pos h]

/-- A new word joins a list with space at its end (R65). -/
theorem State.addReread_joins {s : State} {a : WordAddr} (h : a ∉ s.fetch.reread)
    (space : s.fetch.reread.length < Config.rereadMax) :
    s.addReread a = { s with fetch := { s.fetch with reread := s.fetch.reread ++ [a] } } := by
  rw [State.addReread, if_neg h, if_pos space]

/-- A seventeenth word empties the list, records IMAGE 0x41 and restarts the sweep (R66). -/
theorem State.addReread_overflows {s : State} {a : WordAddr} (h : a ∉ s.fetch.reread)
    (full : Config.rereadMax ≤ s.fetch.reread.length) :
    s.addReread a =
      (({ s with fetch := { s.fetch with reread := [] } } : State).recordFault .rereadOverflow .fetch
        (.word a)).restartSweep := by
  rw [State.addReread, if_neg h, if_neg (Nat.not_lt.mpr full)]

/-- The fetch engine after an overflow: the sweep at its first word, or as it was found while the tracker is not live (R62,
R66). -/
theorem State.addReread_overflow_fetch {s : State} {a : WordAddr} (h : a ∉ s.fetch.reread)
    (full : Config.rereadMax ≤ s.fetch.reread.length) :
    (s.addReread a).fetch = { sweep := if s.live then firstSweep s.straps else s.fetch.sweep, reread := [] } := by
  rw [State.addReread_overflows h full, State.restartSweep]
  change (if s.live then _ else _ : State).fetch = _
  split <;> rfl

theorem State.addReread_overflow_faults {s : State} {a : WordAddr} (h : a ∉ s.fetch.reread)
    (full : Config.rereadMax ≤ s.fetch.reread.length) :
    (s.addReread a).faults = Table.set ClassState.clear s.faults 4
      ((s.classState 4).record { kind := .rereadOverflow, origin := .fetch, location := .word a, tag := s.tag }) := by
  rw [State.addReread_overflows h full, (State.restartSweep_only _).faults (by decide)]
  rfl

/-- The fault classes after an overflow. -/
theorem State.addReread_overflow_classState {s : State} {a : WordAddr} (h : a ∉ s.fetch.reread)
    (full : Config.rereadMax ≤ s.fetch.reread.length) (n : Nat) :
    (s.addReread a).classState n =
      if 4 = n then (s.classState 4).record
        { kind := .rereadOverflow, origin := .fetch, location := .word a, tag := s.tag }
      else s.classState n := by
  rw [State.classState, State.addReread_overflow_faults h full, Table.get_set]
  rfl

/-- The list after an addition (R65, R66). -/
theorem State.addReread_reread (s : State) (a : WordAddr) :
    (s.addReread a).fetch.reread =
      if a ∈ s.fetch.reread then s.fetch.reread
      else if s.fetch.reread.length < Config.rereadMax then s.fetch.reread ++ [a] else [] := by
  split
  · rw [State.addReread_listed ‹_›]
  · split
    · rw [State.addReread_joins ‹_› ‹_›]
    · rw [State.addReread_overflow_fetch ‹_› (Nat.not_lt.mp ‹_›)]

/-- An addition that does not overflow leaves the sweep and the faults. -/
theorem State.addReread_quiet {s : State} {a : WordAddr}
    (h : a ∈ s.fetch.reread ∨ s.fetch.reread.length < Config.rereadMax) :
    (s.addReread a).fetch.sweep = s.fetch.sweep ∧ (s.addReread a).faults = s.faults := by
  by_cases listed : a ∈ s.fetch.reread
  · rw [State.addReread_listed listed]
    exact ⟨rfl, rfl⟩
  · rw [State.addReread_joins listed (h.resolve_left listed)]
    exact ⟨rfl, rfl⟩

/-- Of the fault classes an addition reaches IMAGE alone. -/
theorem State.addReread_classState (s : State) (a : WordAddr) {n : Nat} (hn : n ≠ 4) :
    (s.addReread a).classState n = s.classState n := by
  by_cases h : a ∈ s.fetch.reread ∨ s.fetch.reread.length < Config.rereadMax
  · rw [State.classState, (State.addReread_quiet h).2, State.classState]
  · rw [not_or, Nat.not_lt] at h
    rw [State.addReread_overflow_classState h.1 h.2, if_neg hn.symm]

/-- What an addition does to the fetch engine and the faults rests on nothing that a tracker event on a word changes. -/
theorem State.addReread_after {s t : State} (h : s.Only [.shadow, .gather] t) (a : WordAddr) :
    (t.addReread a).fetch = (s.addReread a).fetch ∧ (t.addReread a).faults = (s.addReread a).faults := by
  have fetch : t.fetch = s.fetch := h.fetch (by decide)
  have faults : t.faults = s.faults := h.faults (by decide)
  by_cases listed : a ∈ s.fetch.reread
  · rw [State.addReread_listed listed, State.addReread_listed (fetch ▸ listed)]
    exact ⟨fetch, faults⟩
  · by_cases space : s.fetch.reread.length < Config.rereadMax
    · rw [State.addReread_joins listed space, State.addReread_joins (fetch ▸ listed) (fetch ▸ space)]
      exact ⟨by simp only [fetch], faults⟩
    · have full := Nat.not_lt.mp space
      have live : t.live = s.live := by rw [State.live, State.live, h.device (by decide)]
      have tag : t.tag = s.tag := by rw [State.tag, State.tag, h.frame (by decide)]
      constructor
      · rw [State.addReread_overflow_fetch listed full, State.addReread_overflow_fetch (fetch ▸ listed) (fetch ▸ full),
          live, h.straps (by decide), fetch]
      · rw [State.addReread_overflow_faults listed full,
          State.addReread_overflow_faults (fetch ▸ listed) (fetch ▸ full), h.classState (by decide), faults, tag]

/-! ### A test on a word's entries -/

theorem State.anyQuality_iff (s : State) (a : WordAddr) (f : Quality Route → Bool) (g : Quality (BitVec 32) → Bool) :
    s.anyQuality a f g = true ↔
      (∃ o, s.straps.xpOffset a = some o ∧ f (s.crosspointQuality o) = true) ∨
        ∃ o, s.straps.nameOffset a = some o ∧ g (s.nameQuality o) = true := by
  unfold State.anyQuality
  rw [Bool.or_eq_true]
  refine or_congr ?_ ?_
  · cases s.straps.xpOffset a <;> simp
  · cases s.straps.nameOffset a <;> simp

/-! ### The snoop (R9 to R12) -/

section Snoop

variable {α : Type} {covers touches poisoned : Bool} {whole : α} {merge : α → α} {q : Quality α}

theorem snoopQuality_poisoned : snoopQuality covers touches true whole merge q = .suspect := rfl

theorem snoopQuality_covered : snoopQuality true touches false whole merge q = .verified whole := rfl

theorem snoopQuality_untouched : snoopQuality false false false whole merge q = q := rfl

theorem snoopQuality_verified (h : α) :
    snoopQuality false true false whole merge (.verified h) = .verified (merge h) := rfl

theorem snoopQuality_unverified (h : α) :
    snoopQuality false true false whole merge (.unverified h) = .unverified (merge h) := rfl

/-- A write of some of the tracked bits leaves an entry with no held value as it is (R11). -/
theorem snoopQuality_kept (hq : q = .unknown ∨ q = .suspect) : snoopQuality false true false whole merge q = q := by
  rcases hq with rfl | rfl <;> rfl

theorem snoopDoubts_iff : snoopDoubts covers touches poisoned q = true ↔
    poisoned = false ∧ (covers = false ∧ touches = true) ∧ (q = .unknown ∨ q = .suspect) := by
  cases q <;> simp [snoopDoubts, and_assoc]

end Snoop

theorem partial_crosspoint_iff (l : Lanes) :
    (coversCrosspoint l = false ∧ touchesCrosspoint l = true) ↔ l.getLsbD 0 ≠ l.getLsbD 1 := by
  unfold coversCrosspoint touchesCrosspoint
  cases l.getLsbD 0 <;> cases l.getLsbD 1 <;> decide

theorem partial_name_iff (l : Lanes) : (coversName l = false ∧ touchesName l = true) ↔ l ≠ 0xF#4 ∧ l ≠ 0#4 := by
  simp [coversName, fullLanes, touchesName]

/-- A write leaves an entry of its word in doubt: it is clean, writes a part of the tracked bits, and the entry holds no value
to lay them over (R11). -/
def State.InDoubt (s : State) (w : WriteWord) : Prop :=
  w.poisoned = false ∧
    ((∃ o, Straps.xpOffset s.straps w.addr = some o ∧ w.lanes.getLsbD 0 ≠ w.lanes.getLsbD 1 ∧
        (s.crosspointQuality o = .unknown ∨ s.crosspointQuality o = .suspect)) ∨
      ∃ o, Straps.nameOffset s.straps w.addr = some o ∧ w.lanes ≠ 0xF#4 ∧ w.lanes ≠ 0#4 ∧
        (s.nameQuality o = .unknown ∨ s.nameQuality o = .suspect))

theorem State.inDoubt_iff (s : State) (w : WriteWord) :
    s.anyQuality w.addr (snoopDoubts (coversCrosspoint w.lanes) (touchesCrosspoint w.lanes) w.poisoned)
      (snoopDoubts (coversName w.lanes) (touchesName w.lanes) w.poisoned) = true ↔ s.InDoubt w := by
  simp only [State.anyQuality_iff, snoopDoubts_iff, partial_crosspoint_iff, partial_name_iff, State.InDoubt]
  constructor
  · rintro (⟨o, ho, clean, part, q⟩ | ⟨o, ho, clean, ⟨notFull, notNone⟩, q⟩)
    · exact ⟨clean, .inl ⟨o, ho, part, q⟩⟩
    · exact ⟨clean, .inr ⟨o, ho, notFull, notNone, q⟩⟩
  · rintro ⟨clean, ⟨o, ho, part, q⟩ | ⟨o, ho, notFull, notNone, q⟩⟩
    · exact .inl ⟨o, ho, clean, part, q⟩
    · exact .inr ⟨o, ho, clean, ⟨notFull, notNone⟩, q⟩

/-- The tracker event of a snoop, before a word in doubt joins the re-read list. -/
def State.snooped (s : State) (w : WriteWord) : State :=
  s.actOnWord w.addr
    (snoopQuality (coversCrosspoint w.lanes) (touchesCrosspoint w.lanes) w.poisoned (routeOf w.data)
      (mergeRoute w.lanes w.data))
    (snoopQuality (coversName w.lanes) (touchesName w.lanes) w.poisoned w.data (mergeNameWord w.lanes w.data))

theorem State.snooped_only (s : State) (w : WriteWord) : s.Only [.shadow, .gather] (s.snooped w) := s.actOnWord_only ..

theorem State.snoop_of_doubt {s : State} {w : WriteWord} (live : s.live = true) (h : s.InDoubt w) :
    s.snoop w = (s.snooped w).addReread w.addr := by
  unfold State.snoop
  rw [(s.inDoubt_iff w).mpr h, live]
  rfl

theorem State.snoop_of_sure {s : State} {w : WriteWord} (h : ¬ s.InDoubt w) : s.snoop w = s.snooped w := by
  rw [← State.inDoubt_iff, Bool.not_eq_true] at h
  unfold State.snoop
  rw [h, Bool.and_false]
  rfl

/-- With the tracker not live the snoop changes nothing (R8). -/
theorem State.snoop_of_not_live {s : State} (w : WriteWord) (h : s.live = false) : s.snoop w = s := by
  simp [State.snoop, State.actOnWord, h]

theorem State.snoop_shadow (s : State) (w : WriteWord) : (s.snoop w).shadow = (s.snooped w).shadow := by
  unfold State.snoop
  dsimp only
  split
  · exact (State.addReread_only ..).shadow (by decide)
  · rfl

/-- What the snoop of a write makes of the crosspoint entries, the tracker live. -/
theorem State.crosspointQuality_snoop {s : State} (w : WriteWord) (live : s.live = true) (j : Nat) :
    (s.snoop w).crosspointQuality j =
      if s.straps.xpOffset w.addr = some j then
        snoopQuality (coversCrosspoint w.lanes) (touchesCrosspoint w.lanes) w.poisoned (routeOf w.data)
          (mergeRoute w.lanes w.data) (s.crosspointQuality j)
      else s.crosspointQuality j := by
  rw [State.crosspointQuality, State.snoop_shadow]
  change (s.snooped w).crosspointQuality j = _
  rw [State.snooped, State.crosspointQuality_actOnWord]
  simp only [live, true_and]

/-- What the snoop of a write makes of the name entries, the tracker live. -/
theorem State.nameQuality_snoop {s : State} (w : WriteWord) (live : s.live = true) (j : Nat) :
    (s.snoop w).nameQuality j =
      if s.straps.nameOffset w.addr = some j then
        snoopQuality (coversName w.lanes) (touchesName w.lanes) w.poisoned w.data (mergeNameWord w.lanes w.data)
          (s.nameQuality j)
      else s.nameQuality j := by
  rw [State.nameQuality, State.snoop_shadow]
  change (s.snooped w).nameQuality j = _
  rw [State.snooped, State.nameQuality_actOnWord]
  simp only [live, true_and]

/-- The bits of a lane are those of the data where the lane is written, and of the held word elsewhere. -/
theorem getLsbD_laneByte (data : BitVec 32) (k i : Nat) (h : i < 8) :
    (laneByte data k).getLsbD i = data.getLsbD (8 * k + i) := by
  simp [laneByte, h]

theorem getLsbD_mergeNameWord (lanes : Lanes) (data held : BitVec 32) {i : Nat} (h : i < 32) :
    (mergeNameWord lanes data held).getLsbD i =
      if lanes.getLsbD (i / 8) = true then data.getLsbD i else held.getLsbD i := by
  have pick : ∀ k j, j < 8 →
      (if lanes.getLsbD k then laneByte data k else laneByte held k).getLsbD j =
        if lanes.getLsbD k = true then data.getLsbD (8 * k + j) else held.getLsbD (8 * k + j) := by
    intro k j hj
    split <;> exact getLsbD_laneByte _ _ _ hj
  obtain ⟨k, j, hk, hj, rfl⟩ : ∃ k j, k < 4 ∧ j < 8 ∧ i = 8 * k + j :=
    ⟨i / 8, i % 8, by omega, Nat.mod_lt _ (by decide), by omega⟩
  rw [show (8 * k + j) / 8 = k by omega, ← pick k j hj]
  unfold mergeNameWord
  interval_cases k <;> simp only [BitVec.getLsbD_append] <;> grind

theorem getLsbD_mergeRoute (lanes : Lanes) (data : BitVec 32) (held : Route) {i : Nat} (h : i < 11) :
    (mergeRoute lanes data held).source.getLsbD i =
      if lanes.getLsbD (i / 8) = true then data.getLsbD i else held.source.getLsbD i := by
  unfold mergeRoute
  dsimp only
  rw [BitVec.getLsbD_append]
  by_cases low : i < 8
  · rw [if_pos low, show i / 8 = 0 by omega]
    split <;> simp [low]
  · rw [if_neg low, show i / 8 = 1 by omega]
    split <;> simp <;> grind

/-- Settles O17. -/
theorem snoopByCoverage : Obligations.SnoopByCoverage := by
  refine ⟨fun s w h => State.snoop_of_not_live w h, fun s w live => ⟨fun o ho => ?crosspoint, fun o ho => ?name,
    fun none j => ?noCrosspoint, fun none j => ?noName, fun doubt hd => ⟨fun h => ?doubt, fun h => ?sure⟩,
    s.snoop_only w⟩, fun data held lanes route => ?lanes, fun s a => ⟨State.addReread_listed,
    State.addReread_joins, fun h full => ⟨fun live => ?live, fun dead => ?dead⟩⟩⟩
  case crosspoint =>
    have acted := State.crosspointQuality_snoop w live o
    rw [if_pos ho] at acted
    refine ⟨fun poisoned => ?_, fun clean l0 l1 => ?_, fun clean part => ?_, fun clean l0 l1 => ?_, fun j hj => ?_⟩
    · rw [acted, poisoned, snoopQuality_poisoned]
    · rw [acted, clean, show coversCrosspoint w.lanes = true by rw [coversCrosspoint, l0, l1]; rfl, snoopQuality_covered]
    · obtain ⟨notCovered, touched⟩ := (partial_crosspoint_iff w.lanes).mpr part
      rw [clean, notCovered, touched] at acted
      refine ⟨fun h hq => ?_, fun h hq => ?_, fun hq => ?_⟩
      · rw [acted, hq, snoopQuality_verified]
      · rw [acted, hq, snoopQuality_unverified]
      · rw [acted, snoopQuality_kept hq]
    · rw [acted, clean, show coversCrosspoint w.lanes = false by rw [coversCrosspoint, l0, l1]; rfl,
        show touchesCrosspoint w.lanes = false by rw [touchesCrosspoint, l0, l1]; rfl, snoopQuality_untouched]
    · rw [State.crosspointQuality_snoop w live, ho, if_neg (fun e => hj (Option.some.inj e).symm)]
  case name =>
    have acted := State.nameQuality_snoop w live o
    rw [if_pos ho] at acted
    refine ⟨fun poisoned => ?_, fun clean full => ?_, fun clean none => ?_, fun clean notFull notNone => ?_, fun j hj => ?_⟩
    · rw [acted, poisoned, snoopQuality_poisoned]
    · rw [acted, clean, full, show coversName 0xF#4 = true from rfl, snoopQuality_covered]
    · rw [acted, clean, none, show coversName 0#4 = false from rfl, show touchesName 0#4 = false from rfl,
        snoopQuality_untouched]
    · obtain ⟨notCovered, touched⟩ := (partial_name_iff w.lanes).mpr ⟨notFull, notNone⟩
      rw [clean, notCovered, touched] at acted
      refine ⟨fun h hq => ?_, fun h hq => ?_, fun hq => ?_⟩
      · rw [acted, hq, snoopQuality_verified]
      · rw [acted, hq, snoopQuality_unverified]
      · rw [acted, snoopQuality_kept hq]
    · rw [State.nameQuality_snoop w live, ho, if_neg (fun e => hj (Option.some.inj e).symm)]
  case noCrosspoint => rw [State.crosspointQuality_snoop w live, none, if_neg (by simp)]
  case noName => rw [State.nameQuality_snoop w live, none, if_neg (by simp)]
  case doubt =>
    rw [State.snoop_of_doubt live (hd.mp h)]
    exact State.addReread_after (s.snooped_only w) w.addr
  case sure =>
    have frame := s.snooped_only w
    rw [State.snoop_of_sure (fun d => h (hd.mpr d))]
    exact ⟨frame.fetch (by decide), frame.faults (by decide)⟩
  case lanes =>
    refine ⟨rfl, fun i hi => ?_, rfl, fun i hi => getLsbD_mergeRoute lanes data route hi,
      fun i hi => getLsbD_mergeNameWord lanes data held hi⟩
    simp [routeOf, hi]
  case live =>
    rw [State.addReread_overflows h full, State.restartSweep]
    exact if_pos live
  case dead =>
    rw [State.addReread_overflows h full, State.restartSweep]
    have notLive : ¬ s.live = true := by simp [dead]
    exact if_neg notLive

end Sys2Proof.Machine
end

section
/-! A completed read of a region word (R14 to R16, R26, R67) and an abandoned access (R13, R44). -/

namespace Sys2Proof.Machine

/-! ### A completed read (R14 to R16) -/

/-- A VERIFIED entry of a word holds another value than the tracked bits read (R15). -/
def State.Differs (s : State) (a : WordAddr) (d : Decoded) : Prop :=
  (∃ o h, Straps.xpOffset s.straps a = some o ∧ s.crosspointQuality o = .verified h ∧ h ≠ routeOf d.data) ∨
    ∃ o h, Straps.nameOffset s.straps a = some o ∧ s.nameQuality o = .verified h ∧ h ≠ d.data

theorem mismatches_iff {α : Type} [DecidableEq α] (value : α) (q : Quality α) :
    mismatches value q = true ↔ ∃ h, q = .verified h ∧ h ≠ value := by
  cases q <;> simp [mismatches]

theorem State.differs_iff (s : State) (a : WordAddr) (d : Decoded) :
    s.anyQuality a (mismatches (routeOf d.data)) (mismatches d.data) = true ↔ s.Differs a d := by
  simp only [State.anyQuality_iff, mismatches_iff, State.Differs, exists_and_left]

theorem State.trackRead_unreadable {s : State} {d : Decoded} (o : Origin) (a : WordAddr)
    (h : d.outcome = .uncorrectable) : s.trackRead o a d = s.actOnWord a (fun _ => .suspect) (fun _ => .suspect) := by
  simp only [State.trackRead, h]

/-- Readable data make the word's entries VERIFIED, with ENTRY 0x33 where one differed (R15). -/
theorem State.trackRead_readable {s : State} {d : Decoded} (o : Origin) (a : WordAddr)
    (h : d.outcome ≠ .uncorrectable) :
    (s.live = true → s.Differs a d → s.trackRead o a d =
      (s.actOnWord a (fun _ => .verified (routeOf d.data)) (fun _ => .verified d.data)).recordFault .contentMismatch o
        (.word a)) ∧
    (¬ (s.live = true ∧ s.Differs a d) →
      s.trackRead o a d = s.actOnWord a (fun _ => .verified (routeOf d.data)) (fun _ => .verified d.data)) := by
  rw [← State.differs_iff, ← Bool.and_eq_true]
  refine ⟨fun live differs => ?_, fun same => ?_⟩ <;> unfold State.trackRead <;> split
  · exact absurd ‹_› h
  · dsimp only
    rw [live, differs]
    rfl
  · exact absurd ‹_› h
  · exact if_neg same

/-- The quality a completed read leaves an entry of its word in (R15, R16). -/
def readQuality {α : Type} (outcome : EccOutcome) (value : α) : Quality α :=
  if outcome = .uncorrectable then .suspect else .verified value

/-- A completed read acts on its word's entries as one tracker event; what it records reaches ENTRY alone. -/
theorem State.trackRead_shadow (s : State) (o : Origin) (a : WordAddr) (d : Decoded) :
    (s.trackRead o a d).shadow =
      (s.actOnWord a (fun _ => readQuality d.outcome (routeOf d.data)) (fun _ => readQuality d.outcome d.data)).shadow ∧
    (s.trackRead o a d).gather =
      (s.actOnWord a (fun _ => readQuality d.outcome (routeOf d.data)) (fun _ => readQuality d.outcome d.data)).gather := by
  by_cases h : d.outcome = .uncorrectable
  · rw [State.trackRead_unreadable o a h]
    simp only [readQuality, if_pos h, and_self]
  · obtain ⟨other, same⟩ := s.trackRead_readable o a h
    simp only [readQuality, if_neg h]
    by_cases differs : s.live = true ∧ s.Differs a d
    · rw [other differs.1 differs.2]
      exact ⟨rfl, rfl⟩
    · rw [same differs]
      exact ⟨rfl, rfl⟩

theorem State.actOnWord_classState (s : State) (a : WordAddr) (f : Quality Route → Quality Route)
    (g : Quality (BitVec 32) → Quality (BitVec 32)) (n : Nat) : (s.actOnWord a f g).classState n = s.classState n :=
  (s.actOnWord_only a f g).classState (by decide) n

/-- A tracker event leaves the frame tag and the liveness. -/
theorem State.actOnWord_tag (s : State) (a : WordAddr) (f : Quality Route → Quality Route)
    (g : Quality (BitVec 32) → Quality (BitVec 32)) : (s.actOnWord a f g).tag = s.tag := by
  rw [State.tag, (s.actOnWord_only a f g).frame (by decide), State.tag]

theorem State.trackRead_classState_differs {s : State} {a : WordAddr} {d : Decoded} (o : Origin)
    (h : d.outcome ≠ .uncorrectable) (live : s.live = true) (differs : s.Differs a d) :
    (s.trackRead o a d).classState 3 =
      (s.classState 3).record { kind := .contentMismatch, origin := o, location := .word a, tag := s.tag } := by
  rw [(s.trackRead_readable o a h).1 live differs, State.classState_recordFault, State.actOnWord_classState,
    State.actOnWord_tag]
  rfl

/-- A completed read records nothing but the content mismatch, of class ENTRY. -/
theorem State.trackRead_classState_other {s : State} {a : WordAddr} {d : Decoded} (o : Origin) {n : Nat}
    (h : n ≠ 3 ∨ d.outcome = .uncorrectable ∨ ¬ (s.live = true ∧ s.Differs a d)) :
    (s.trackRead o a d).classState n = s.classState n := by
  by_cases unreadable : d.outcome = .uncorrectable
  · rw [State.trackRead_unreadable o a unreadable, State.actOnWord_classState]
  · obtain ⟨other, same⟩ := s.trackRead_readable o a unreadable
    by_cases differs : s.live = true ∧ s.Differs a d
    · have entry : n ≠ 3 := by simpa [unreadable, differs] using h
      rw [other differs.1 differs.2, State.classState_recordFault, if_neg (fun e => entry e.symm),
        State.actOnWord_classState]
    · rw [same differs, State.actOnWord_classState]

/-- The fault of a region read's decode (R26, R67). -/
theorem State.recordReadDecode_region {s : State} {e : Access} (h : e.region ≠ .outside) (o : EccOutcome) :
    s.recordReadDecode e o =
      match o with
      | .clean => s
      | .corrected =>
        s.recordFault (if e.origin = .fetch then .fetchCorrected else .readCorrected) e.origin.origin (.word e.addr)
      | .uncorrectable => s.recordFault .uncorrectableRegion e.origin.origin (.word e.addr) := by
  unfold State.recordReadDecode
  cases o with
  | clean => rfl
  | corrected => cases e.origin <;> rfl
  | uncorrectable => exact if_neg h

theorem State.recordReadDecode_classState {s : State} {e : Access} (h : e.region ≠ .outside) {o : EccOutcome} {n : Nat}
    (other : n ≠ 0 ∨ o ≠ .corrected) (other' : n ≠ 3 ∨ o ≠ .uncorrectable) :
    (s.recordReadDecode e o).classState n = s.classState n := by
  rw [State.recordReadDecode_region h]
  cases o with
  | clean => rfl
  | corrected =>
    rw [State.classState_recordFault, if_neg]
    split <;> exact fun e => other.resolve_right (by simp) e.symm
  | uncorrectable =>
    rw [State.classState_recordFault, if_neg]
    exact fun e => other'.resolve_right (by simp) e.symm

/-- A completed read of a region word up to its delivery: its decode's fault, and the tracker's part unless the read is
dropped. -/
def State.readTracked (s : State) (e : Access) (stale : Bool) (d : Decoded) : State :=
  if stale = false then (s.recordReadDecode e d.outcome).trackRead e.origin.origin e.addr d
  else s.recordReadDecode e d.outcome

theorem State.completeRead_region {s : State} {e : Access} (h : e.region ≠ .outside) (stale : Bool) (x : BitVec 32)
    (c : BitVec 7) :
    s.completeRead e stale x c =
      (s.readTracked e stale (decodeWord s.straps.eccen x c)).deliverRead e stale (decodeWord s.straps.eccen x c) := by
  simp only [State.completeRead, State.readTracked, ne_eq, h, not_false_eq_true, true_and]

theorem State.readTracked_only (s : State) (e : Access) (stale : Bool) (d : Decoded) :
    s.Only [.shadow, .gather, .faults] (s.readTracked e stale d) := by
  unfold State.readTracked
  split
  · exact ((s.recordReadDecode_only ..).mono (by decide)).trans (State.trackRead_only ..)
  · exact (s.recordReadDecode_only ..).mono (by decide)

theorem State.recordReadDecode_live (s : State) (e : Access) (o : EccOutcome) :
    (s.recordReadDecode e o).live = s.live := by
  rw [State.live, (s.recordReadDecode_only e o).device (by decide), State.live]

/-- A dropped read leaves the shadow and the gather unit (R8, R14). -/
theorem State.readTracked_dropped {s : State} {e : Access} {stale : Bool} (d : Decoded)
    (h : stale = true ∨ s.live = false) :
    (s.readTracked e stale d).shadow = s.shadow ∧ (s.readTracked e stale d).gather = s.gather := by
  have frame := s.recordReadDecode_only e d.outcome
  have recorded := And.intro (frame.shadow (by decide)) (frame.gather (by decide))
  unfold State.readTracked
  split
  · rename_i fresh
    have notLive : ¬ (s.recordReadDecode e d.outcome).live = true := by
      simpa [State.recordReadDecode_live, fresh] using h
    obtain ⟨shadow, gather⟩ := (s.recordReadDecode e d.outcome).trackRead_shadow e.origin.origin e.addr d
    rw [shadow, gather, State.actOnWord, if_neg notLive]
    exact recorded
  · exact recorded

/-- A read that is not dropped gives the entries of its word, and no others, their new quality (R15, R16). -/
theorem State.readTracked_quality {s : State} {e : Access} (d : Decoded) (live : s.live = true) (j : Nat) :
    (s.readTracked e false d).crosspointQuality j =
        (if s.straps.xpOffset e.addr = some j then readQuality d.outcome (routeOf d.data) else s.crosspointQuality j) ∧
      (s.readTracked e false d).nameQuality j =
        (if s.straps.nameOffset e.addr = some j then readQuality d.outcome d.data else s.nameQuality j) := by
  have frame := s.recordReadDecode_only e d.outcome
  have live' : (s.recordReadDecode e d.outcome).live = true := by rw [State.recordReadDecode_live, live]
  rw [State.readTracked, if_pos rfl]
  generalize s.recordReadDecode e d.outcome = u at frame live'
  obtain ⟨shadow, _⟩ := u.trackRead_shadow e.origin.origin e.addr d
  have crosspoint := u.crosspointQuality_actOnWord e.addr (fun _ => readQuality d.outcome (routeOf d.data))
    (fun _ => readQuality d.outcome d.data) j
  have name := u.nameQuality_actOnWord e.addr (fun _ => readQuality d.outcome (routeOf d.data))
    (fun _ => readQuality d.outcome d.data) j
  simp only [live', true_and, State.crosspointQuality, State.nameQuality, frame.straps (by decide),
    frame.shadow (by decide)] at crosspoint name ⊢
  rw [shadow]
  exact ⟨crosspoint, name⟩

/-- Whether an entry differs rests on the shadow and the straps. -/
theorem State.differs_congr {s t : State} (shadow : t.shadow = s.shadow) (straps : t.straps = s.straps) (a : WordAddr)
    (d : Decoded) : t.Differs a d ↔ s.Differs a d := by
  simp only [State.Differs, State.crosspointQuality, State.nameQuality, shadow, straps]

section

variable {s : State} {e : Access} {stale : Bool} {d : Decoded} (region : e.region ≠ .outside)
include region

theorem State.readTracked_corrected_class :
    (d.outcome ≠ .corrected → (s.readTracked e stale d).classState 0 = s.classState 0) ∧
    (d.outcome = .corrected → (s.readTracked e stale d).classState 0 = (s.classState 0).record
      { kind := if e.origin = .fetch then .fetchCorrected else .readCorrected, origin := e.origin.origin,
        location := .word e.addr, tag := s.tag }) := by
  have tracked : (s.readTracked e stale d).classState 0 = (s.recordReadDecode e d.outcome).classState 0 := by
    unfold State.readTracked
    split
    · exact State.trackRead_classState_other _ (.inl (by decide))
    · rfl
  rw [tracked]
  refine ⟨fun h => State.recordReadDecode_classState region (.inr h) (.inl (by decide)), fun h => ?_⟩
  rw [State.recordReadDecode_region region, h]
  dsimp only
  rw [State.classState_recordFault, if_pos]
  split <;> rfl

theorem State.readTracked_entry_uncorrectable (h : d.outcome = .uncorrectable) :
    (s.readTracked e stale d).classState 3 = (s.classState 3).record
      { kind := .uncorrectableRegion, origin := e.origin.origin, location := .word e.addr, tag := s.tag } := by
  have tracked : (s.readTracked e stale d).classState 3 = (s.recordReadDecode e d.outcome).classState 3 := by
    unfold State.readTracked
    split
    · exact State.trackRead_classState_other _ (.inr (.inl h))
    · rfl
  rw [tracked, State.recordReadDecode_region region, h]
  exact State.classState_recordFault ..

theorem State.readTracked_entry_readable (h : d.outcome ≠ .uncorrectable) :
    (stale = false ∧ s.live = true ∧ s.Differs e.addr d →
      (s.readTracked e stale d).classState 3 = (s.classState 3).record
        { kind := .contentMismatch, origin := e.origin.origin, location := .word e.addr, tag := s.tag }) ∧
    (¬ (stale = false ∧ s.live = true ∧ s.Differs e.addr d) →
      (s.readTracked e stale d).classState 3 = s.classState 3) := by
  have frame := s.recordReadDecode_only e d.outcome
  have recorded : (s.recordReadDecode e d.outcome).classState 3 = s.classState 3 :=
    State.recordReadDecode_classState region (.inl (by decide)) (.inr h)
  have tag : (s.recordReadDecode e d.outcome).tag = s.tag := by rw [State.tag, frame.frame (by decide), State.tag]
  have differs := State.differs_congr (frame.shadow (by decide)) (frame.straps (by decide)) e.addr d
  unfold State.readTracked
  refine ⟨fun ⟨fresh, live, other⟩ => ?_, fun same => ?_⟩
  · rw [if_pos fresh, State.trackRead_classState_differs _ h (by rw [State.recordReadDecode_live, live])
      (differs.mpr other), recorded, tag]
  · split
    · rename_i fresh
      rw [State.trackRead_classState_other, recorded]
      rw [State.recordReadDecode_live, differs]
      exact .inr (.inr fun both => same ⟨fresh, both⟩)
    · exact recorded

end

/-- Delivering a read records nothing but an overflow of the re-read list, of class IMAGE. -/
theorem State.deliverRead_classState (s : State) (e : Access) (stale : Bool) (d : Decoded) {n : Nat} (hn : n ≠ 4) :
    (s.deliverRead e stale d).classState n = s.classState n := by
  have finished : s.finishFetch.classState n = s.classState n := s.finishFetch_only.classState (by decide) n
  unfold State.deliverRead
  split
  · exact (s.answerPort_only ..).classState (by decide) n
  · dsimp only
    split
    · rw [State.addReread_classState _ _ hn, finished]
    · exact finished

theorem State.deliverRead_port {s : State} {e : Access} {p : PortId} (stale : Bool) (d : Decoded) (h : e.origin = .port p) :
    s.deliverRead e stale d =
      s.answerPort p (if d.outcome = .uncorrectable then Answer.fail else .data d.data d.check) := by
  simp only [State.deliverRead, h]
  cases d.outcome <;> rfl

/-- A read completion of the oldest access, a read (R40). -/
theorem exec_readCompletion_read {s : State} {e : Access} {rest : List Access} {stale : Bool} (x : BitVec 32)
    (c : BitVec 7) (up : s.up = true) (hl : s.memPort.inflight = e :: rest) (hop : e.op = .read stale) :
    exec (.readCompletion x c) s = .next (s.settle ((s.popInflight rest).completeRead e stale x c).grantIfDrained) := by
  simp only [exec, execReadCompletion, up, if_true, State.readCompletes, hl, hop]

section

variable {s : State} {e : Access} {stale : Bool} {x : BitVec 32} {c : BitVec 7} {d : Decoded}
  (region : e.region ≠ .outside) (hd : decodeWord s.straps.eccen x c = d)
include region hd

/-- The completion of a region read: the tracker's part, then the delivery to the requester. -/
theorem State.completeRead_delivers :
    s.completeRead e stale x c = (s.readTracked e stale d).deliverRead e stale d := by
  rw [State.completeRead_region region, hd]

theorem State.completeRead_dropped (h : stale = true ∨ s.live = false) :
    (s.completeRead e stale x c).shadow = s.shadow ∧ (s.completeRead e stale x c).gather = s.gather := by
  have delivered := (s.readTracked e stale d).deliverRead_only e stale d
  rw [State.completeRead_delivers region hd, delivered.shadow (by decide), delivered.gather (by decide)]
  exact s.readTracked_dropped d h

theorem State.completeRead_quality (fresh : stale = false) (live : s.live = true) (j : Nat) :
    (s.completeRead e stale x c).crosspointQuality j =
        (if s.straps.xpOffset e.addr = some j then readQuality d.outcome (routeOf d.data) else s.crosspointQuality j) ∧
      (s.completeRead e stale x c).nameQuality j =
        (if s.straps.nameOffset e.addr = some j then readQuality d.outcome d.data else s.nameQuality j) := by
  subst fresh
  rw [State.completeRead_delivers region hd, ← (s.readTracked_quality d live j).1, ← (s.readTracked_quality d live j).2,
    State.crosspointQuality, State.nameQuality, ((s.readTracked e false d).deliverRead_only e false d).shadow (by decide)]
  exact ⟨rfl, rfl⟩

theorem State.completeRead_classState {n : Nat} (hn : n ≠ 4) :
    (s.completeRead e stale x c).classState n = (s.readTracked e stale d).classState n := by
  rw [State.completeRead_delivers region hd, State.deliverRead_classState _ _ _ _ hn]

/-- A port's region read is answered, its port freed, and the fetch engine left (R26, R40). -/
theorem State.completeRead_port {p : PortId} (port : e.origin = .port p) :
    (s.completeRead e stale x c).port p =
        { s.port p with
          pending := none
          answers := (s.port p).answers ++ [if d.outcome = .uncorrectable then Answer.fail else .data d.data d.check] } ∧
      (s.completeRead e stale x c).fetch = s.fetch ∧ (s.completeRead e stale x c).mgmt = s.mgmt ∧
      ∀ q, q ≠ p → (s.completeRead e stale x c).port q = s.port q := by
  have tracked := s.readTracked_only e stale d
  have ports := tracked.port (by decide) (by decide)
  rw [State.completeRead_delivers region hd, State.deliverRead_port stale d port]
  have answered := (s.readTracked e stale d).answerPort_only p
    (if d.outcome = .uncorrectable then Answer.fail else .data d.data d.check)
  refine ⟨?_, (answered.fetch (by decide)).trans (tracked.fetch (by decide)),
    (answered.mgmt (by decide)).trans (tracked.mgmt (by decide)), fun q hq => ?_⟩
  · rw [State.answerPort, State.port_setPort_same, ports]
  · rw [State.answerPort, State.port_setPort_other _ _ hq.symm, ports]

end

/-- Settles O19. -/
theorem regionReadActsOnShadow : Obligations.RegionReadActsOnShadow := by
  intro s e rest stale data check d up hl hop region hd
  have decoded : decodeWord (s.popInflight rest).straps.eccen data check = d := hd.symm
  have classes := fun n (hn : n ≠ 4) => State.completeRead_classState (stale := stale) region decoded hn
  refine ⟨(s.popInflight rest).completeRead e stale data check, exec_readCompletion_read data check up hl hop, ?memPort,
    State.completeRead_dropped region decoded, fun fresh live => ?acted, fun unreadable => ?unreadable,
    fun differs hdiff readable => ?readable, fun corrected => ?corrected, fun other => ?other,
    fun p port => State.completeRead_port region decoded port, ?only⟩
  case memPort => exact (State.completeRead_only ..).memPort (by decide)
  case acted =>
    have crosspoint : ∀ j, ((s.popInflight rest).completeRead e stale data check).crosspointQuality j =
        if s.straps.xpOffset e.addr = some j then readQuality d.outcome (routeOf d.data) else s.crosspointQuality j :=
      fun j => (State.completeRead_quality region decoded fresh live j).1
    have name : ∀ j, ((s.popInflight rest).completeRead e stale data check).nameQuality j =
        if s.straps.nameOffset e.addr = some j then readQuality d.outcome d.data else s.nameQuality j :=
      fun j => (State.completeRead_quality region decoded fresh live j).2
    refine ⟨fun o ho => ⟨fun bad => ?_, fun good => ?_, fun j hj => ?_⟩,
      fun o ho => ⟨fun bad => ?_, fun good => ?_, fun j hj => ?_⟩, fun none j => ?_, fun none j => ?_⟩
    · rw [crosspoint, if_pos ho, readQuality, if_pos bad]
    · rw [crosspoint, if_pos ho, readQuality, if_neg good]
    · rw [crosspoint, if_neg (by simp [ho, hj.symm])]
    · rw [name, if_pos ho, readQuality, if_pos bad]
    · rw [name, if_pos ho, readQuality, if_neg good]
    · rw [name, if_neg (by simp [ho, hj.symm])]
    · rw [crosspoint, if_neg (by simp [none])]
    · rw [name, if_neg (by simp [none])]
  case unreadable =>
    rw [classes 3 (by decide)]
    exact State.readTracked_entry_uncorrectable region unreadable
  case readable =>
    rw [classes 3 (by decide)]
    obtain ⟨mismatch, same⟩ := State.readTracked_entry_readable (s := s.popInflight rest) (stale := stale) region readable
    exact ⟨fun h => mismatch (hdiff.mp h), fun h => same fun g => h (hdiff.mpr g)⟩
  case corrected =>
    have recorded := State.readTracked_corrected_class (s := s.popInflight rest) (stale := stale) (d := d) region
    rw [classes 0 (by decide), recorded.2 corrected]
    refine ⟨fun p port => ?_, fun fetch => ?_⟩
    · rw [port]
      rfl
    · rw [fetch]
      rfl
  case other =>
    rw [classes 0 (by decide)]
    exact (State.readTracked_corrected_class (s := s.popInflight rest) (stale := stale) region).1 other
  case only =>
    exact ((s.popInflight_only rest).mono (by decide)).trans ((State.completeRead_only ..).mono (by decide))

end Sys2Proof.Machine
end

section
/-! An abandoned access (R13, R44): what is answered and recorded for it, and then its word's place on the re-read list. -/

namespace Sys2Proof.Machine

/-! ### A fetch read's end (R64) -/

theorem State.finishFetch_fetch (s : State) :
    s.finishFetch.fetch = { s.fetch with sweep := if s.fetch.sweep = .ending then .idle else s.fetch.sweep } := by
  unfold State.finishFetch
  split
  · rename_i ending
    rw [if_pos ending]
  · rename_i other
    rw [if_neg other]

theorem State.finishFetch_mgmt (s : State) :
    s.finishFetch.mgmt = { s.mgmt with sweep := s.mgmt.sweep || decide (s.fetch.sweep = .ending) } := by
  unfold State.finishFetch
  split
  · rename_i ending
    simp [ending]
  · rename_i other
    have notEnding : s.fetch.sweep ≠ .ending := other
    simp [notEnding]

/-! ### The four kinds of abandoned access (R44) -/

/-- An abandoned fetch read, before its word goes back on the list. -/
def State.fetchLost (s : State) (a : WordAddr) : State := s.finishFetch.recordFault .fetchTimeout .fetch (.word a)

/-- An abandoned write is answered FAIL unless it was posted. -/
def State.writeFailed (s : State) (p : PortId) (posted : Bool) : State := if posted then s else s.answerPort p .fail

/-- An abandoned region write, before its word joins the list. -/
def State.writeLost (s : State) (p : PortId) (posted : Bool) (a : WordAddr) : State :=
  ((s.writeFailed p posted).actOnWord a (fun _ => .suspect) (fun _ => .suspect)).recordFault .regionWriteTimeout
    (portOrigin p) (.word a)

section

variable {s : State} {e : Access} {p : PortId}

theorem State.abandon_portRead {stale : Bool} (origin : e.origin = .port p) (op : e.op = .read stale) :
    s.abandon e = (s.answerPort p .fail).recordFault .readMemoryTimeout (portOrigin p) (.word e.addr) := by
  simp only [State.abandon, origin, op]

theorem State.abandon_fetchRead {stale : Bool} (origin : e.origin = .fetch) (op : e.op = .read stale) :
    s.abandon e = (s.fetchLost e.addr).addReread e.addr := by
  simp only [State.abandon, origin, op, State.fetchLost]

theorem State.abandon_outsideWrite {w : WriteWord} {posted : Bool} (origin : e.origin = .port p)
    (op : e.op = .write w posted) (region : e.region = .outside) : s.abandon e = s.writeFailed p posted := by
  simp only [State.abandon, origin, op, region, if_true, State.writeFailed]

theorem State.abandon_regionWrite {w : WriteWord} {posted : Bool} (origin : e.origin = .port p)
    (op : e.op = .write w posted) (region : e.region ≠ .outside) :
    s.abandon e = (s.writeLost p posted e.addr).addReread e.addr := by
  simp only [State.abandon, origin, op, if_neg region, State.writeLost, State.writeFailed]

end

theorem State.fetchLost_only (s : State) (a : WordAddr) : s.Only [.fetch, .mgmt, .faults] (s.fetchLost a) :=
  (s.finishFetch_only.mono (by decide)).trans ((State.recordFault_only ..).mono (by decide))

theorem State.writeFailed_only (s : State) (p : PortId) (posted : Bool) :
    s.Only [.portA, .portB] (s.writeFailed p posted) := by
  unfold State.writeFailed
  split
  · exact .refl s
  · exact s.answerPort_only ..

theorem State.writeFailed_port (s : State) (p : PortId) (posted : Bool) :
    (s.writeFailed p posted).port p =
        (if posted then s.port p
         else { s.port p with pending := none, answers := (s.port p).answers ++ [.fail] }) ∧
      ∀ q, q ≠ p → (s.writeFailed p posted).port q = s.port q := by
  unfold State.writeFailed State.answerPort
  split
  · exact ⟨rfl, fun q _ => rfl⟩
  · exact ⟨State.port_setPort_same .., fun q hq => State.port_setPort_other s _ hq.symm⟩

theorem State.writeLost_only (s : State) (p : PortId) (posted : Bool) (a : WordAddr) :
    s.Only [.portA, .portB, .shadow, .gather, .faults] (s.writeLost p posted a) :=
  (((s.writeFailed_only p posted).mono (by decide)).trans ((State.actOnWord_only ..).mono (by decide))).trans
    ((State.recordFault_only ..).mono (by decide))

/-- An abandoned region write makes the entries of its word SUSPECT, and no other, while the tracker is live (R13). -/
theorem State.writeLost_quality (s : State) (p : PortId) (posted : Bool) (a : WordAddr) (j : Nat) :
    (s.writeLost p posted a).crosspointQuality j =
        (if s.live = true ∧ s.straps.xpOffset a = some j then .suspect else s.crosspointQuality j) ∧
      (s.writeLost p posted a).nameQuality j =
        (if s.live = true ∧ s.straps.nameOffset a = some j then .suspect else s.nameQuality j) := by
  have frame := s.writeFailed_only p posted
  have crosspoint := (s.writeFailed p posted).crosspointQuality_actOnWord a (fun _ => .suspect) (fun _ => .suspect) j
  have name := (s.writeFailed p posted).nameQuality_actOnWord a (fun _ => .suspect) (fun _ => .suspect) j
  simp only [State.live, State.crosspointQuality, State.nameQuality, frame.device (by decide),
    frame.straps (by decide), frame.shadow (by decide)] at crosspoint name ⊢
  exact ⟨crosspoint, name⟩

/-- With the tracker not live an abandoned write leaves the shadow and the gather unit (R8). -/
theorem State.writeLost_notLive {s : State} (p : PortId) (posted : Bool) (a : WordAddr) (h : s.live = false) :
    (s.writeLost p posted a).shadow = s.shadow ∧ (s.writeLost p posted a).gather = s.gather := by
  have frame := s.writeFailed_only p posted
  have notLive : ¬ (s.writeFailed p posted).live = true := by
    rw [State.live, frame.device (by decide)]
    exact fun live => by cases h.symm.trans live
  have acted : (s.writeFailed p posted).actOnWord a (fun _ => .suspect) (fun _ => .suspect) = s.writeFailed p posted :=
    if_neg notLive
  rw [State.writeLost, acted]
  exact ⟨frame.shadow (by decide), frame.gather (by decide)⟩

theorem State.writeLost_port (s : State) (p : PortId) (posted : Bool) (a : WordAddr) (q : PortId) :
    (s.writeLost p posted a).port q = (s.writeFailed p posted).port q := by
  rw [State.writeLost, State.recordFault_port, (State.actOnWord_only ..).port (by decide) (by decide)]

/-! ### What both listed kinds share -/

/-- `u` is `s` with the fault of an abandoned access recorded in class ENTRY, and its word still to be listed. -/
structure State.Lost (s u : State) (e : Access) (kind : FaultKind) : Prop where
  reread : u.fetch.reread = s.fetch.reread
  sweep : u.fetch.sweep = if e.origin = .fetch ∧ s.fetch.sweep = .ending then .idle else s.fetch.sweep
  entry : u.classState 3 = (s.classState 3).record
    { kind, origin := e.origin.origin, location := .word e.addr, tag := s.tag }
  others : ∀ n, n ≠ 3 → u.classState n = s.classState n
  live : u.live = s.live
  straps : u.straps = s.straps
  tag : u.tag = s.tag

theorem State.fetchLost_lost {s : State} {e : Access} (origin : e.origin = .fetch) :
    s.Lost (s.fetchLost e.addr) e .fetchTimeout := by
  have frame := s.fetchLost_only e.addr
  have finished := s.finishFetch_only
  have tag : s.finishFetch.tag = s.tag := by rw [State.tag, finished.frame (by decide), State.tag]
  refine ⟨?_, ?_, ?_, fun n hn => ?_, ?_, frame.straps (by decide), ?_⟩
  · rw [State.fetchLost, State.recordFault_fetch, State.finishFetch_fetch]
  · rw [State.fetchLost, State.recordFault_fetch, State.finishFetch_fetch]
    simp only [origin, true_and]
  · rw [State.fetchLost, State.classState_recordFault, finished.classState (by decide), origin, tag]
    rfl
  · rw [State.fetchLost, State.classState_recordFault, finished.classState (by decide),
      if_neg (fun h => hn h.symm)]
  · rw [State.live, frame.device (by decide), State.live]
  · rw [State.tag, frame.frame (by decide), State.tag]

theorem State.writeLost_lost {s : State} {e : Access} {p : PortId} (posted : Bool) (origin : e.origin = .port p) :
    s.Lost (s.writeLost p posted e.addr) e .regionWriteTimeout := by
  have frame := s.writeLost_only p posted e.addr
  have failed := s.writeFailed_only p posted
  have tag : (s.writeFailed p posted).tag = s.tag := by rw [State.tag, failed.frame (by decide), State.tag]
  refine ⟨by rw [frame.fetch (by decide)], ?_, ?_, fun n hn => ?_, ?_, frame.straps (by decide), ?_⟩
  · rw [frame.fetch (by decide), origin, if_neg (by simp)]
  · rw [State.writeLost, State.classState_recordFault, State.actOnWord_classState, State.actOnWord_tag,
      failed.classState (by decide), tag, origin]
    rfl
  · rw [State.writeLost, State.classState_recordFault, State.actOnWord_classState, failed.classState (by decide),
      if_neg (fun h => hn h.symm)]
  · rw [State.live, frame.device (by decide), State.live]
  · rw [State.tag, frame.frame (by decide), State.tag]

namespace State.Lost

variable {s u : State} {e : Access} {kind : FaultKind} (h : s.Lost u e kind)
include h

theorem listed_reread : (u.addReread e.addr).fetch.reread =
    if e.addr ∈ s.fetch.reread then s.fetch.reread
    else if s.fetch.reread.length < 16 then s.fetch.reread ++ [e.addr] else [] := by
  rw [State.addReread_reread, h.reread]
  rfl

theorem listed_sweep (room : e.addr ∈ s.fetch.reread ∨ s.fetch.reread.length < 16) :
    (u.addReread e.addr).fetch.sweep =
      if e.origin = .fetch ∧ s.fetch.sweep = .ending then .idle else s.fetch.sweep := by
  rw [← h.reread] at room
  rw [(State.addReread_quiet room).1, h.sweep]

theorem listed_entry : (u.addReread e.addr).classState 3 = (s.classState 3).record
    { kind, origin := e.origin.origin, location := .word e.addr, tag := s.tag } := by
  rw [State.addReread_classState _ _ (by decide), h.entry]

/-- Beside ENTRY only an overflow of the list is recorded, and it restarts the sweep of a live tracker (R66). -/
theorem listed_classes :
    (∀ n, n ≠ 3 → n ≠ 4 → (u.addReread e.addr).classState n = s.classState n) ∧
    (e.addr ∈ s.fetch.reread ∨ s.fetch.reread.length < 16 →
      (u.addReread e.addr).classState 4 = s.classState 4) ∧
    (e.addr ∉ s.fetch.reread → 16 ≤ s.fetch.reread.length →
      (u.addReread e.addr).classState 4 = (s.classState 4).record
        { kind := .rereadOverflow, origin := .fetch, location := .word e.addr, tag := s.tag } ∧
      (s.live = true → (u.addReread e.addr).fetch.sweep =
        .running .crosspoint (BitVec.ofNat 22 (s.straps.xbase.toNat * 16384))) ∧
      (s.live = false → (u.addReread e.addr).fetch.sweep =
        if e.origin = .fetch ∧ s.fetch.sweep = .ending then .idle else s.fetch.sweep)) := by
  refine ⟨fun n entry image => ?_, fun room => ?_, fun new full => ?_⟩
  · rw [State.addReread_classState _ _ image, h.others n entry]
  · rw [← h.reread] at room
    rw [State.classState, (State.addReread_quiet room).2, ← State.classState, h.others 4 (by decide)]
  · rw [← h.reread] at new full
    refine ⟨?_, fun live => ?_, fun dead => ?_⟩
    · rw [State.addReread_overflow_classState new full, if_pos rfl, h.others 4 (by decide), h.tag]
    · rw [State.addReread_overflow_fetch new full, h.live, live, h.straps]
      rfl
    · rw [State.addReread_overflow_fetch new full, h.live, dead, ← h.sweep]
      rfl

end State.Lost

/-- Settles O23. -/
theorem abandonedAccessByKind : Obligations.AbandonedAccessByKind := by
  intro s e kept hk
  refine ⟨fun p stale origin op => State.abandon_portRead origin op, fun stale origin op => ?fetchRead,
    fun p w posted origin op region => State.abandon_outsideWrite origin op region,
    fun p w posted origin op region => ?regionWrite, fun kind => ?classes⟩
  case fetchRead =>
    have lost : s.Lost (s.fetchLost e.addr) e .fetchTimeout := State.fetchLost_lost origin
    have frame := s.fetchLost_only e.addr
    have listed := (s.fetchLost e.addr).addReread_only e.addr
    rw [State.abandon_fetchRead origin op]
    refine ⟨(listed.shadow (by decide)).trans (frame.shadow (by decide)),
      (listed.gather (by decide)).trans (frame.gather (by decide)), hk ▸ lost.listed_reread, fun room => ?_, ?_, ?_,
      frame.trans (listed.mono (by decide))⟩
    · rw [lost.listed_sweep room]
      simp only [origin, true_and]
    · rw [listed.mgmt (by decide), State.fetchLost, State.recordFault_mgmt, State.finishFetch_mgmt]
    · rw [lost.listed_entry, origin]
      rfl
  case regionWrite =>
    have lost : s.Lost (s.writeLost p posted e.addr) e .regionWriteTimeout := State.writeLost_lost posted origin
    have frame := s.writeLost_only p posted e.addr
    have listed := (s.writeLost p posted e.addr).addReread_only e.addr
    have shadow := listed.shadow (by decide)
    obtain ⟨own, other⟩ := s.writeFailed_port p posted
    have port : ∀ q, ((s.writeLost p posted e.addr).addReread e.addr).port q = (s.writeFailed p posted).port q := fun q =>
      (listed.port (by decide) (by decide) q).trans (s.writeLost_port p posted e.addr q)
    have crosspoint : ∀ j, ((s.writeLost p posted e.addr).addReread e.addr).crosspointQuality j =
        if s.live = true ∧ s.straps.xpOffset e.addr = some j then .suspect else s.crosspointQuality j := fun j => by
      rw [State.crosspointQuality, shadow, ← State.crosspointQuality, (s.writeLost_quality p posted e.addr j).1]
    have name : ∀ j, ((s.writeLost p posted e.addr).addReread e.addr).nameQuality j =
        if s.live = true ∧ s.straps.nameOffset e.addr = some j then .suspect else s.nameQuality j := fun j => by
      rw [State.nameQuality, shadow, ← State.nameQuality, (s.writeLost_quality p posted e.addr j).2]
    rw [State.abandon_regionWrite origin op region]
    refine ⟨fun live o ho => ?_, fun live o ho => ?_, fun j hj => ?_, fun j hj => ?_, fun dead => ?_,
      hk ▸ lost.listed_reread, fun room => ?_, fun q hq => (port q).trans (other q hq), (port p).trans own, ?_,
      (frame.mono (by decide)).trans (listed.mono (by decide))⟩
    · rw [crosspoint, if_pos ⟨live, ho⟩]
    · rw [name, if_pos ⟨live, ho⟩]
    · rw [crosspoint, if_neg fun h => hj h.2]
    · rw [name, if_neg fun h => hj h.2]
    · rw [shadow, listed.gather (by decide)]
      exact State.writeLost_notLive p posted e.addr dead
    · rw [lost.listed_sweep room, origin, if_neg (by simp)]
    · rw [lost.listed_entry, origin]
      rfl
  case classes =>
    rcases kind with ⟨origin, stale, op⟩ | ⟨p, w, posted, origin, op, region⟩
    · rw [State.abandon_fetchRead origin op]
      exact (State.fetchLost_lost origin).listed_classes
    · rw [State.abandon_regionWrite origin op region]
      exact (State.writeLost_lost posted origin).listed_classes

end Sys2Proof.Machine
end

section
/-! The issue of a granted access (R39, R42, R47). -/

namespace Sys2Proof.Machine

/-! ### The opportunity and the grant -/

/-- An event that leaves the ports as they are frees none. -/
theorem State.settle_of_ports {s t : State} (h : ∀ p, t.port p = s.port p) : s.settle t = t := by
  refine State.settle_of_kept fun p => ?_
  rw [h]
  exact (em _).imp_right id

theorem State.issue_of_closed {s : State} (h : s.loan ≠ .none ∨ 4 ≤ s.memPort.inflight.length) : s.issue = s := by
  have closed : s.canIssue = false := by
    rcases h with loan | full
    · simp [State.canIssue, loan]
    · have notFew : ¬ s.memPort.inflight.length < Config.inflightMax := Nat.not_lt.mpr full
      simp [State.canIssue, notFew]
  rw [State.issue, closed]
  rfl

theorem State.Opportunity.canIssue {s : State} (h : s.Opportunity) : s.canIssue = true := by
  obtain ⟨_, loan, few⟩ := h
  simp [State.canIssue, loan, few]

theorem State.issue_granted {s : State} {g : Grant} (h : s.Opportunity) (granted : s.arbitrate = some g) :
    s.issue = (s.noteGrant g).issueGrant g := by
  rw [State.issue, if_pos h.canIssue, granted]

theorem State.issue_ungranted {s : State} (h : s.arbitrate = none) : s.issue = s := by
  rw [State.issue, h]
  split <;> rfl

theorem exec_issue {s : State} (up : s.up = true) : exec .issue s = .next (s.settle s.issue) := by
  simp only [exec, execIssue, up, if_true]

theorem State.noteGrant_port (s : State) (g : Grant) (p : PortId) : (s.noteGrant g).port p = s.port p :=
  (s.noteGrant_only g).port (by decide) (by decide) p

section

variable {s : State} {p : PortId} {r : PendingRequest}

theorem State.issueGrant_read {a : WordAddr} (pending : (s.port p).pending = some r) (op : r.op = .read a) :
    s.issueGrant (.port p .pendingRequest) =
      (s.setPort p { s.port p with pending := some { r with wait := .issued } }).issueRead (.port p) a := by
  simp only [State.issueGrant, pending, op]

theorem State.issueGrant_write {w : WriteWord} (pending : (s.port p).pending = some r) (op : r.op = .write w) :
    s.issueGrant (.port p .pendingRequest) =
      (s.setPort p { s.port p with pending := some { r with wait := .issued } }).issueWrite p w false := by
  simp only [State.issueGrant, pending, op]

theorem State.issueGrant_queueHead {w : WriteWord} {rest : List WriteWord} (queue : (s.port p).queue = w :: rest) :
    s.issueGrant (.port p .queueHead) = (s.setPort p ((s.port p).takeHead rest)).issueWrite p w true := by
  simp only [State.issueGrant, queue]

end

/-- A pending request issued frees no port. -/
theorem State.settle_of_issued {s t : State} {p : PortId} {r : PendingRequest}
    (own : t.port p = { s.port p with pending := some r }) (other : ∀ q, q ≠ p → t.port q = s.port q) :
    s.settle t = t := by
  refine State.settle_of_kept fun q => ?_
  by_cases hq : q = p
  · subst hq
    rw [own]
    exact .inr (by simp)
  · rw [other q hq]
    exact (em _).imp_right id

/-! ### The fetch read's place (R60, R61) -/

theorem State.takeFetchRead_listed {s : State} {a : WordAddr} {rest : List WordAddr} (h : s.fetch.reread = a :: rest) :
    s.takeFetchRead.fetch = { s.fetch with reread := rest } := by
  simp only [State.takeFetchRead, h]

theorem State.takeFetchRead_swept {s : State} {region : SweepRegion} {a : WordAddr} (h : s.fetch.reread = [])
    (running : s.fetch.sweep = .running region a) :
    s.takeFetchRead.fetch = { s.fetch with sweep := sweepAfter s.straps region a } := by
  simp only [State.takeFetchRead, h, running]

/-- A fetch read is issued with its stale mark clear, since it waits only while the tracker is live (R8, R60). -/
theorem State.issueRead_live {s : State} (live : s.live = true) (origin : Requester) (a : WordAddr) :
    s.issueRead origin a = s.appendAccess origin (.read false) a := by
  rw [State.issueRead, live, Bool.not_true, Bool.and_false]

/-- Settles O15. -/
theorem issueOfRead : Obligations.IssueOfRead := by
  refine ⟨fun s up closed => ?closed, fun s chance => ⟨fun p a d granted pending => ?port, fun a granted waiting => ?fetch,
    fun ungranted => ?ungranted⟩⟩
  case closed => rw [exec_issue up, State.issue_of_closed closed, State.settle_of_ports fun _ => rfl]
  case ungranted => rw [exec_issue chance.1, State.issue_ungranted ungranted, State.settle_of_ports fun _ => rfl]
  case port =>
    have mark : decide (Straps.region s.straps a ≠ .outside ∧ s.live = false) =
        (decide (Straps.region s.straps a ≠ .outside) && !s.live) := by
      rw [Bool.decide_and]
      cases s.live <;> rfl
    rw [exec_issue chance.1, State.issue_granted chance granted,
      State.issueGrant_read (r := { op := .read a, wait := .waiting d }) (by rw [State.noteGrant_port, pending]) rfl,
      State.noteGrant_port, mark]
    rw [State.settle_of_issued (p := p) (r := { op := .read a, wait := .issued })]
    · cases p <;> rfl
    · rw [(State.issueRead_only ..).port (by decide) (by decide), State.port_setPort_same]
    · intro q hq
      rw [(State.issueRead_only ..).port (by decide) (by decide), State.port_setPort_other _ _ hq.symm,
        State.noteGrant_port]
  case fetch =>
    obtain ⟨live, _⟩ := State.fetchWaiting_some waiting
    have taken := (s.noteGrant (.fetch a)).takeFetchRead_only
    have noted := s.noteGrant_only (.fetch a)
    have live' : (s.noteGrant (.fetch a)).takeFetchRead.live = true := by
      rw [State.live, taken.device (by decide), noted.device (by decide)]
      exact live
    have appended := (s.noteGrant (.fetch a)).takeFetchRead.appendAccess_only .fetch (.read false) a
    have frame : s.Only [.memPort, .fetch]
        ((s.noteGrant (.fetch a)).takeFetchRead.appendAccess .fetch (.read false) a) :=
      ((noted.mono (by decide)).trans (taken.mono (by decide))).trans (appended.mono (by decide))
    refine ⟨(s.noteGrant (.fetch a)).takeFetchRead.appendAccess .fetch (.read false) a, ?_, ?_, fun rest reread => ?_,
      fun b reread sweep => ?_, fun b reread sweep => ?_, frame⟩
    · rw [exec_issue chance.1, State.issue_granted chance granted, State.issueGrant, State.issueRead_live live',
        State.settle_of_ports (frame.port (by decide) (by decide))]
    · simp only [State.appendAccess, taken.memPort (by decide), taken.straps (by decide), taken.now (by decide),
        taken.params (by decide)]
      rfl
    · exact (appended.fetch (by decide)).trans (State.takeFetchRead_listed (s := s.noteGrant (.fetch a)) reread)
    · exact (appended.fetch (by decide)).trans (State.takeFetchRead_swept (s := s.noteGrant (.fetch a)) reread sweep)
    · exact (appended.fetch (by decide)).trans (State.takeFetchRead_swept (s := s.noteGrant (.fetch a)) reread sweep)

/-! ### Ports and memory port put beside an event of the tracker -/

/-- The state with other ports and another memory port. -/
def State.withBus (s : State) (a b : Port) (m : MemPort) : State := { s with portA := a, portB := b, memPort := m }

section

variable (s : State) (x y : Port) (m : MemPort)

theorem State.withBus_only : s.Only [.portA, .portB, .memPort] (s.withBus x y m) := by
  constructor
  intro f hf
  cases f <;> first | rfl | exact absurd (by decide) hf

theorem State.report_withBus (e : Entry) (v : Value) : (s.withBus x y m).report e v = (s.report e v).withBus x y m := by
  unfold State.report State.withBus
  dsimp only
  split <;> rfl

theorem State.tracked_withBus (e : Entry) : (s.withBus x y m).tracked e = s.tracked e := State.tracked_congr rfl rfl e

theorem State.reportChanges_withBus (old : State) (a : WordAddr) :
    (s.withBus x y m).reportChanges (old.withBus x y m) a = (s.reportChanges old a).withBus x y m := by
  unfold State.reportChanges
  refine List.foldl_hom (fun t : State => t.withBus x y m) fun t e => ?_
  simp only [State.tracked_withBus]
  split
  · rfl
  · exact t.report_withBus ..

theorem State.actOnWord_withBus (a : WordAddr) (f : Quality Route → Quality Route)
    (g : Quality (BitVec 32) → Quality (BitVec 32)) :
    (s.withBus x y m).actOnWord a f g = (s.actOnWord a f g).withBus x y m := by
  by_cases live : s.live = true
  · rw [State.actOnWord, State.actOnWord, if_pos live, if_pos (show (s.withBus x y m).live = true from live)]
    exact State.reportChanges_withBus { s with shadow := s.shadow.update s.straps a f g } x y m s a
  · rw [State.actOnWord, State.actOnWord, if_neg live, if_neg (show ¬ (s.withBus x y m).live = true from live)]

theorem State.restartSweep_withBus : (s.withBus x y m).restartSweep = s.restartSweep.withBus x y m := by
  by_cases live : s.live = true
  · rw [State.restartSweep, State.restartSweep, if_pos live, if_pos (show (s.withBus x y m).live = true from live)]
    rfl
  · rw [State.restartSweep, State.restartSweep, if_neg live, if_neg (show ¬ (s.withBus x y m).live = true from live)]

theorem State.addReread_withBus (a : WordAddr) : (s.withBus x y m).addReread a = (s.addReread a).withBus x y m := by
  by_cases listed : a ∈ s.fetch.reread
  · rw [State.addReread_listed listed]
    exact State.addReread_listed (s := s.withBus x y m) listed
  · by_cases space : s.fetch.reread.length < Config.rereadMax
    · rw [State.addReread_joins listed space]
      exact State.addReread_joins (s := s.withBus x y m) listed space
    · rw [State.addReread_overflows listed (Nat.not_lt.mp space), ← State.restartSweep_withBus]
      exact State.addReread_overflows (s := s.withBus x y m) listed (Nat.not_lt.mp space)

/-- The snoop reads neither the ports nor the in-flight list, and leaves them (R9). -/
theorem State.snoop_withBus (w : WriteWord) : (s.withBus x y m).snoop w = (s.snoop w).withBus x y m := by
  have snooped : (s.withBus x y m).snooped w = (s.snooped w).withBus x y m := s.actOnWord_withBus x y m ..
  by_cases live : s.live = true
  · by_cases doubt : s.InDoubt w
    · rw [State.snoop_of_doubt live doubt, ← State.addReread_withBus, ← snooped]
      exact State.snoop_of_doubt (s := s.withBus x y m) live doubt
    · rw [State.snoop_of_sure doubt, ← snooped]
      exact State.snoop_of_sure (s := s.withBus x y m) doubt
  · have dead : s.live = false := by simpa using live
    exact (State.snoop_of_not_live (s := s.withBus x y m) w dead).trans
      (congrArg (fun t : State => t.withBus x y m) (s.snoop_of_not_live w dead).symm)

end

/-! ### A write issued -/

theorem Straps.outside_iff (p : Straps) (a : WordAddr) :
    p.region a = .outside ↔ p.xpOffset a = none ∧ p.nameOffset a = none := by
  unfold Straps.region
  cases p.xpOffset a <;> cases p.nameOffset a <;> simp

/-- A write outside the regions has no entry to snoop (R9). -/
theorem State.snoop_outside {s : State} {w : WriteWord} (h : Straps.region s.straps w.addr = .outside) :
    s.snoop w = s := by
  obtain ⟨noCrosspoint, noName⟩ := (Straps.outside_iff _ _).mp h
  have sure : ¬ s.InDoubt w := by
    rintro ⟨_, ⟨o, ho, _⟩ | ⟨o, ho, _⟩⟩
    · cases noCrosspoint.symm.trans ho
    · cases noName.symm.trans ho
  rw [State.snoop_of_sure sure, State.snooped, State.actOnWord]
  split
  · simp only [State.reportChanges, Shadow.update, Straps.entriesAt, noCrosspoint, noName, List.append_nil,
      List.foldl_nil]
  · rfl

/-- The memory port after the issue of a port's write: each read of the same region word in flight is stale, the access is at
the end, and the arbiter's state follows the grant (R8, R39, R42, R47). -/
def State.busAfterWrite (s : State) (p : PortId) (w : WriteWord) (posted : Bool) : MemPort where
  inflight :=
    (s.memPort.inflight.map fun e =>
      match e.op with
      | .read stale => { e with op := .read (stale || decide (e.addr = w.addr ∧ e.region ≠ .outside)) }
      | .write _ _ => e) ++
    [{ origin := .port p, addr := w.addr, region := Straps.region s.straps w.addr, issueTime := s.now,
       deadline := s.now + s.params.tm, op := .write w posted }]
  lastGranted := p
  starvation := if s.fetchWaiting.isSome then min (s.memPort.starvation + 1) 255 else s.memPort.starvation

/-- A mark set where a condition holds, as one value of the mark (R8). -/
theorem Access.stale_if (e : Access) (b : Prop) [Decidable b] :
    (if b then e.stale else e) =
      match e.op with
      | .read stale => { e with op := .read (stale || decide b) }
      | .write _ _ => e := by
  obtain ⟨origin, op, addr, region, issueTime, deadline⟩ := e
  by_cases hb : b <;> cases op <;> simp [Access.stale, hb]

/-- The state after port p, set to `pt`, has issued a write: the snoop's, with the ports and the memory port put beside it. -/
def State.writeIssue (s : State) (p : PortId) (pt : Port) (w : WriteWord) (posted : Bool) : State :=
  (s.snoop w).withBus (s.setPort p pt).portA (s.setPort p pt).portB (s.busAfterWrite p w posted)

theorem State.issueWrite_granted (s : State) (p : PortId) (c : Candidate) (pt : Port) (w : WriteWord) (posted : Bool) :
    ((s.noteGrant (.port p c)).setPort p pt).issueWrite p w posted = s.writeIssue p pt w posted := by
  rw [State.writeIssue, ← State.snoop_withBus, State.issueWrite]
  congr 1
  have marked : ∀ l : List Access,
      (l.map fun e => if e.addr = w.addr ∧ e.region ≠ .outside then e.stale else e) =
        l.map fun e => match e.op with
          | .read stale => { e with op := .read (stale || decide (e.addr = w.addr ∧ e.region ≠ .outside)) }
          | .write _ _ => e := fun l => List.map_congr_left fun e _ => e.stale_if _
  simp only [State.markStale, State.appendAccess, marked, State.withBus, State.busAfterWrite]
  cases p <;> rfl

/-- What an issued write leaves beside the ports. -/
structure State.WriteIssued (s t : State) (w : WriteWord) (bus : MemPort) : Prop where
  memPort : t.memPort = bus
  snooped : t.shadow = (s.snoop w).shadow ∧ t.gather = (s.snoop w).gather ∧ t.fetch = (s.snoop w).fetch ∧
    t.faults = (s.snoop w).faults
  outside : Straps.region s.straps w.addr = .outside →
    t.shadow = s.shadow ∧ t.gather = s.gather ∧ t.fetch = s.fetch ∧ t.faults = s.faults
  only : s.Only [.portA, .portB, .memPort, .shadow, .gather, .fetch, .faults] t

theorem State.writeIssue_issued (s : State) (p : PortId) (pt : Port) (w : WriteWord) (posted : Bool) :
    s.WriteIssued (s.writeIssue p pt w posted) w (s.busAfterWrite p w posted) where
  memPort := rfl
  snooped := ⟨rfl, rfl, rfl, rfl⟩
  outside h := by
    rw [State.writeIssue, State.snoop_outside h]
    exact ⟨rfl, rfl, rfl, rfl⟩
  only := ((s.snoop_only w).mono (by decide)).trans ((State.withBus_only ..).mono (by decide))

theorem State.writeIssue_port (s : State) (p : PortId) (pt : Port) (w : WriteWord) (posted : Bool) :
    (s.writeIssue p pt w posted).port p = pt ∧ ∀ q, q ≠ p → (s.writeIssue p pt w posted).port q = s.port q := by
  have ports : ∀ q, (s.writeIssue p pt w posted).port q = (s.setPort p pt).port q := by
    intro q
    cases q <;> rfl
  exact ⟨(ports p).trans (s.port_setPort_same p pt),
    fun q hq => (ports q).trans (State.port_setPort_other s pt hq.symm)⟩

theorem Port.takeHead_waiting {pt : Port} {x : WriteWord} {d : Nat} (rest : List WriteWord)
    (h : pt.pending = some { op := .write x, wait := .waiting d }) :
    pt.takeHead rest = { pt with pending := none, answers := pt.answers ++ [.done], queue := rest ++ [x] } := by
  simp only [Port.takeHead, h]

theorem Port.takeHead_other {pt : Port} (rest : List WriteWord)
    (h : ∀ x d, pt.pending ≠ some { op := .write x, wait := .waiting d }) :
    pt.takeHead rest = { pt with queue := rest } := by
  unfold Port.takeHead
  split
  · exact absurd ‹_› (h _ _)
  · rfl

/-- Settles O16. -/
theorem issueOfWrite : Obligations.IssueOfWrite := by
  intro s p w posted bus chance hbus
  have hbus : bus = s.busAfterWrite p w posted := hbus
  subst hbus
  refine ⟨fun d notPosted granted pending => ?pending, fun rest isPosted granted queue => ?queued⟩
  case pending =>
    subst notPosted
    obtain ⟨own, other⟩ :=
      s.writeIssue_port p { s.port p with pending := some { op := .write w, wait := .issued } } w false
    have issued :=
      s.writeIssue_issued p { s.port p with pending := some { op := .write w, wait := .issued } } w false
    refine ⟨_, ?_, own, other, issued.memPort, fun _ => issued.snooped, issued.outside, issued.only⟩
    rw [exec_issue chance.1, State.issue_granted chance granted,
      State.issueGrant_write (r := { op := .write w, wait := .waiting d }) (by rw [State.noteGrant_port, pending]) rfl,
      State.noteGrant_port, State.issueWrite_granted, State.settle_of_issued own other]
  case queued =>
    subst isPosted
    obtain ⟨own, other⟩ := s.writeIssue_port p ((s.port p).takeHead rest) w true
    have issued := s.writeIssue_issued p ((s.port p).takeHead rest) w true
    refine ⟨_, ?_, fun x d waiting => own.trans (Port.takeHead_waiting rest waiting),
      fun none => own.trans (Port.takeHead_other rest none), other, issued.memPort, fun _ => issued.snooped,
      issued.outside, issued.only⟩
    rw [exec_issue chance.1, State.issue_granted chance granted,
      State.issueGrant_queueHead (by rw [State.noteGrant_port, queue]), State.noteGrant_port, State.issueWrite_granted]

end Sys2Proof.Machine
end

section
/-! The control ports (R21 to R32): a request taken, refused at a check or kept presented, a write accepted, the wait timer run
out, and the candidate a port offers. -/

namespace Sys2Proof.Machine

/-! ### Updates of a port -/

@[simp] theorem State.setPort_self (s : State) (p : PortId) : s.setPort p (s.port p) = s := by
  cases p <;> rfl

theorem State.setPort_recordFault (s : State) (p : PortId) (x : Port) (k : FaultKind) (o : Origin) (l : Location) :
    (s.recordFault k o l).setPort p x = (s.setPort p x).recordFault k o l := by
  cases p <;> rfl

@[simp] theorem State.setPort_up (s : State) (p : PortId) (x : Port) : (s.setPort p x).up = s.up := by
  rw [State.up, State.setPort_device, State.up]

/-! ### Requests presented (R22) -/

theorem State.presentRequest_free {s : State} {p : PortId} (r : Request) (h : (s.port p).pending = none) :
    s.presentRequest p r = s.takeRequest p r := by
  simp only [State.presentRequest, h]

theorem State.presentRequest_behind {s : State} {p : PortId} {q : PendingRequest} (r : Request)
    (h : (s.port p).pending = some q) :
    s.presentRequest p r = s.setPort p { s.port p with presented := (s.port p).presented ++ [r] } := by
  simp only [State.presentRequest, h]

/-- A free port takes what stands presented, in the order presented. -/
theorem State.takePresented_free {s : State} {p : PortId} (h : (s.port p).pending = none) :
    s.takePresented p = (s.port p).presented.foldl (fun acc r => acc.presentRequest p r)
      (s.setPort p { s.port p with presented := [] }) := by
  simp only [State.takePresented, h]

/-- A port with a request pending, or with none presented, has nothing to take. -/
theorem State.takePresented_nothing {s : State} {p : PortId}
    (h : (s.port p).pending ≠ none ∨ (s.port p).presented = []) : s.takePresented p = s := by
  cases hp : (s.port p).pending with
  | some q => simp only [State.takePresented, hp]
  | none =>
    have empty : (s.port p).presented = [] := h.resolve_left fun held => held hp
    rw [State.takePresented_free hp, empty, List.foldl_nil, ← empty]
    exact s.setPort_self p

theorem State.freeing_nothing {s t : State} {p : PortId}
    (h : (s.port p).pending = none ∨ (t.port p).pending ≠ none ∨ (t.port p).presented = []) : s.freeing t p = t := by
  rcases h with unheld | nothing
  · exact State.freeing_of_kept (.inl unheld)
  · unfold State.freeing
    split
    · exact State.takePresented_nothing nothing
    · rfl

theorem State.freeing_freed {s t : State} {p : PortId} (held : (s.port p).pending ≠ none) :
    s.freeing t p = t.takePresented p := by
  rw [State.freeing, if_pos (Option.isSome_iff_ne_none.mpr held)]

/-- An event that frees one port with requests presented ends with what that port takes. -/
theorem State.settle_freed {s t : State} {p : PortId} (held : (s.port p).pending ≠ none)
    (other : ∀ q, q ≠ p → (s.port q).pending = none ∨ (t.port q).pending ≠ none ∨ (t.port q).presented = []) :
    s.settle t = t.takePresented p := by
  cases p with
  | a =>
    have kept : ((t.takePresented .a).port .b) = t.port .b := t.takePresented_other (by decide)
    rw [State.settle, State.freeing_freed held, State.freeing_nothing]
    rw [kept]
    exact other .b (by decide)
  | b => rw [State.settle, State.freeing_nothing (other .a (by decide)), State.freeing_freed held]

/-- A request presented to a port that has none to take before it (R22). -/
theorem exec_controlRequest {s : State} {p : PortId} (r : Request) (up : s.up = true)
    (h : (s.port p).pending ≠ none ∨ (s.port p).presented = []) :
    exec (.controlRequest p r) s = .next (s.presentRequest p r) := by
  simp only [exec, execControlRequest, up, if_true, State.takePresented_nothing h]

theorem exec_controlRequest_free {s : State} {p : PortId} (r : Request) (up : s.up = true) (free : (s.port p).Free) :
    exec (.controlRequest p r) s = .next (s.takeRequest p r) := by
  rw [exec_controlRequest r up (.inr free.2), State.presentRequest_free r free.1]

/-! ### The acceptance checks (R23, R24) -/

section

variable {s : State} {r : Request} (p : PortId)

theorem State.takeRequest_badParity (aparen : s.straps.aparen = true) (odd : r.parityOdd = true) :
    s.takeRequest p r = s.refuseRequest p .addressParity r.addr := by
  simp only [State.takeRequest, aparen, odd, Bool.and_self, if_true]

theorem State.parityCheck_of_passes (parity : s.ParityPasses r) :
    (s.straps.aparen && r.parityOdd) = false := by
  cases h : s.straps.aparen
  · rfl
  · exact parity h

theorem State.takeRequest_badLanes (parity : s.ParityPasses r) (eccen : s.straps.eccen = true) (write : r.write = true)
    (lanes : r.lanes ≠ 0xF#4) : s.takeRequest p r = s.refuseRequest p .partialWithEcc r.addr := by
  have notFull : fullLanes r.lanes = false := beq_eq_false_iff_ne.mpr lanes
  simp [State.takeRequest, State.parityCheck_of_passes parity, eccen, write, notFull]

theorem State.takeRequest_read (parity : s.ParityPasses r) (read : r.write = false) :
    s.takeRequest p r = s.makePending p (.read r.addr) := by
  simp [State.takeRequest, State.parityCheck_of_passes parity, read]

theorem State.takeRequest_write (parity : s.ParityPasses r) (write : r.write = true)
    (lanes : s.straps.eccen = true → r.lanes = 0xF#4) :
    s.takeRequest p r = (s.recordWriteDecode p (decodedWrite r s.straps.eccen).1 r.addr).acceptWrite p
      (decodedWrite r s.straps.eccen).2 := by
  have full : (s.straps.eccen && r.write && !fullLanes r.lanes) = false := by
    cases h : s.straps.eccen
    · rfl
    · simp [fullLanes, lanes h]
  simp only [State.takeRequest, State.parityCheck_of_passes parity, full, Bool.false_eq_true, if_false]
  rw [if_pos write]

end

/-- Settles O9. -/
theorem requestTakenRefusedOrKept : Obligations.RequestTakenRefusedOrKept := by
  refine ⟨fun p r s up => ⟨fun free parity read => ?read, fun q pending => ?behind, fun free aparen odd => ?parity,
    fun free parity eccen write lanes => ?lanes, fun h => exec_controlRequest r up h⟩,
    fun s t => ⟨fun h => ?kept, fun p held freed other => ?freed⟩⟩
  case read => rw [exec_controlRequest_free r up free, State.takeRequest_read p parity read, State.makePending]
  case behind =>
    have held : (s.port p).pending ≠ none := by simp [pending]
    rw [exec_controlRequest r up (.inl held), State.presentRequest_behind r pending]
  case parity => rw [exec_controlRequest_free r up free, State.takeRequest_badParity p aparen odd, State.refuseRequest]
  case lanes =>
    rw [exec_controlRequest_free r up free, State.takeRequest_badLanes p parity eccen write lanes, State.refuseRequest]
  case kept => rw [State.settle, State.freeing_nothing (h .a), State.freeing_nothing (h .b)]
  case freed => rw [State.settle_freed held other, State.takePresented_free freed]

/-! ### A write accepted (R25, R28) -/

theorem State.acceptWrite_queued {s : State} {p : PortId} (w : WriteWord) (post : s.straps.post = true)
    (room : (s.port p).queue.length < 8) :
    s.acceptWrite p w =
      s.setPort p { s.port p with queue := (s.port p).queue ++ [w], answers := (s.port p).answers ++ [.done] } := by
  rw [State.acceptWrite, if_pos post, if_pos (show _ < Config.postedDepth from room)]

theorem State.acceptWrite_pending {s : State} {p : PortId} (w : WriteWord)
    (h : s.straps.post = false ∨ 8 ≤ (s.port p).queue.length) : s.acceptWrite p w = s.makePending p (.write w) := by
  rcases h with depth0 | full
  · rw [State.acceptWrite, if_neg (by simp [depth0])]
  · rw [State.acceptWrite, if_neg (show ¬ _ < Config.postedDepth from Nat.not_lt.mpr full), ite_self]

/-- A fault recorded before a write is accepted stands beside the acceptance. -/
theorem State.acceptWrite_recordFault (s : State) (p : PortId) (w : WriteWord) (k : FaultKind) (o : Origin) (l : Location) :
    (s.recordFault k o l).acceptWrite p w = (s.acceptWrite p w).recordFault k o l := by
  simp only [State.acceptWrite, State.makePending, State.recordFault_straps, State.recordFault_port,
    State.recordFault_now, State.recordFault_params, State.setPort_recordFault]
  split
  · split <;> rfl
  · rfl

/-! #### Its decode (R72 to R74) -/

/-- The three results of a decode: the word as received, clean or not, and the corrected word with fresh check bits. -/
theorem eccDecode_cases (data : BitVec 32) (check : BitVec 7) :
    eccDecode data check = { outcome := .clean, data, check } ∨
      (∃ fixed, eccDecode data check = { outcome := .corrected, data := fixed, check := encodeCheck fixed }) ∨
      eccDecode data check = { outcome := .uncorrectable, data, check } := by
  unfold eccDecode
  dsimp only
  split
  · split
    · exact .inr (.inl ⟨_, rfl⟩)
    · exact .inr (.inr rfl)
  · split
    · exact .inl rfl
    · exact .inr (.inr rfl)

theorem eccDecode_clean {data : BitVec 32} {check : BitVec 7} (h : (eccDecode data check).outcome = .clean) :
    eccDecode data check = { outcome := .clean, data, check } := by
  rcases eccDecode_cases data check with clean | ⟨fixed, corrected⟩ | uncorrectable
  · exact clean
  · simp [corrected] at h
  · simp [uncorrectable] at h

theorem eccDecode_corrected {data : BitVec 32} {check : BitVec 7} (h : (eccDecode data check).outcome = .corrected) :
    (eccDecode data check).check = encodeCheck (eccDecode data check).data := by
  rcases eccDecode_cases data check with clean | ⟨fixed, corrected⟩ | uncorrectable
  · simp [clean] at h
  · rw [corrected]
  · simp [uncorrectable] at h

/-- With ECCEN = 0, and with a clean decode, a word passes as received (R71, R72). -/
theorem decodeWord_clean {eccen : Bool} {data : BitVec 32} {check : BitVec 7}
    (h : eccen = false ∨ (eccDecode data check).outcome = .clean) :
    decodeWord eccen data check = { outcome := .clean, data, check } := by
  cases eccen with
  | false => rfl
  | true => exact eccDecode_clean (h.resolve_left (by decide))

theorem decodedWrite_clean {r : Request} {eccen : Bool} (h : eccen = false ∨ (eccDecode r.data r.check).outcome = .clean) :
    decodedWrite r eccen =
      (.clean, { addr := r.addr, lanes := r.lanes, data := r.data, check := r.check, poisoned := false }) := by
  simp only [decodedWrite, decodeWord_clean h]

theorem decodedWrite_corrected {r : Request} (h : (eccDecode r.data r.check).outcome = .corrected) :
    decodedWrite r true =
      (.corrected, { addr := r.addr, lanes := r.lanes, data := (eccDecode r.data r.check).data,
                     check := encodeCheck (eccDecode r.data r.check).data, poisoned := false }) := by
  simp only [decodedWrite, decodeWord, if_true, h, eccDecode_corrected h]

theorem decodedWrite_uncorrectable {r : Request} (h : (eccDecode r.data r.check).outcome = .uncorrectable) :
    decodedWrite r true =
      (.uncorrectable, { addr := r.addr, lanes := r.lanes, data := r.data, check := encodeCheck r.data ^^^ 0x03#7,
                         poisoned := true }) := by
  simp only [decodedWrite, decodeWord, if_true, h, poisonCheck]

/-- Settles O10. -/
theorem writeAccepted : Obligations.WriteAccepted := by
  intro p r s up free parity write received
  have lanes : s.straps.eccen = true → r.lanes = 0xF#4 := fun eccen => (received.resolve_left (by simp [eccen])).1
  have taken : exec (.controlRequest p r) s = .next (s.acceptWrite p
      { addr := r.addr, lanes := r.lanes, data := r.data, check := r.check, poisoned := false }) := by
    rw [exec_controlRequest_free r up free, State.takeRequest_write p parity write lanes,
      decodedWrite_clean (received.imp_right And.right), State.recordWriteDecode]
  refine ⟨fun post room => ?_, fun h => ?_⟩
  · rw [taken, State.acceptWrite_queued _ post room]
  · rw [taken, State.acceptWrite_pending _ h, State.makePending]

/-- Settles O11. -/
theorem writeDecodedAtAcceptance : Obligations.WriteDecodedAtAcceptance := by
  intro p r s w k up free parity write eccen lanes decoded
  have taken : exec (.controlRequest p r) s =
      .next ((s.acceptWrite p w).recordFault k (portOrigin p) (.word r.addr)) := by
    rw [exec_controlRequest_free r up free, State.takeRequest_write p parity write fun _ => lanes, eccen,
      ← State.acceptWrite_recordFault]
    rcases decoded with ⟨corrected, rfl, rfl⟩ | ⟨poisoned, rfl, rfl⟩
    · rw [decodedWrite_corrected corrected, State.recordWriteDecode]
    · rw [decodedWrite_uncorrectable poisoned, State.recordWriteDecode]
      split <;> rfl
  refine ⟨fun post room => ?_, fun h => ?_⟩
  · rw [taken, State.acceptWrite_queued _ post room]
  · rw [taken, State.acceptWrite_pending _ h, State.makePending]

/-! ### The wait timer (R32) -/

theorem exec_waitTimeout {s : State} (p : PortId) (up : s.up = true) :
    exec (.waitTimeout p) s = .next (s.settle (s.expireWait p)) := by
  simp only [exec, execWaitTimeout, up, if_true]

/-- The fault of a request whose wait timer runs out. -/
def PendingOp.waitFault : PendingOp → FaultKind
  | .read _ => .readWaitTimeout
  | .write _ => .writeWaitTimeout

theorem State.expireWait_due {s : State} {p : PortId} {op : PendingOp} {deadline : Nat}
    (pending : (s.port p).pending = some { op, wait := .waiting deadline }) (due : deadline ≤ s.now) :
    s.expireWait p = (s.answerPort p .fail).recordFault op.waitFault (portOrigin p) (.word op.addr) := by
  cases op <;> simp only [State.expireWait, pending, if_pos due, PendingOp.waitFault]

/-- A timer that still runs, or has been stopped, leaves the port. -/
theorem State.expireWait_quiet {s : State} {p : PortId} {q : PendingRequest} (pending : (s.port p).pending = some q)
    (quiet : ∀ deadline, q.wait = .waiting deadline → s.now < deadline) : s.expireWait p = s := by
  obtain ⟨op, wait⟩ := q
  cases wait with
  | waiting deadline => simp only [State.expireWait, pending, if_neg (Nat.not_le.mpr (quiet deadline rfl))]
  | issued => simp only [State.expireWait, pending]

/-- Settles O12. -/
theorem waitTimeoutAnswersFail : Obligations.WaitTimeoutAnswersFail := by
  intro p s q up pending
  have unchanged : (∀ deadline, q.wait = .waiting deadline → s.now < deadline) → exec (.waitTimeout p) s = .next s := by
    intro quiet
    rw [exec_waitTimeout p up, State.expireWait_quiet pending quiet, State.settle_of_ports fun _ => rfl]
  refine ⟨fun deadline a hq due => ?read, fun deadline w hq due => ?write, fun deadline hw early => ?early,
    fun issued => ?issued⟩
  case read =>
    rw [exec_waitTimeout p up, State.expireWait_due (pending.trans (congrArg some hq)) due, State.answerPort,
      PendingOp.waitFault, PendingOp.addr]
  case write =>
    rw [exec_waitTimeout p up, State.expireWait_due (pending.trans (congrArg some hq)) due, State.answerPort,
      PendingOp.waitFault, PendingOp.addr]
  case early =>
    refine unchanged fun d hd => ?_
    cases hw.symm.trans hd
    exact early
  case issued => exact unchanged fun d hd => by cases issued.symm.trans hd

/-! ### The candidate (R31) -/

section

variable {pt : Port}

/-- With posting depth 8 the head of the queue is the candidate of a port that has no request of its own to offer: none
pending, one issued, or a write waiting behind the queue. -/
theorem Port.candidate_queue
    (h : pt.pending = none ∨ (∃ op, pt.pending = some { op, wait := .issued }) ∨
      ∃ w d, pt.pending = some { op := .write w, wait := .waiting d }) :
    pt.candidate true = if pt.queue = [] then none else some .queueHead := by
  rcases h with h | ⟨op, h⟩ | ⟨w, d, h⟩ <;> simp [Port.candidate, h]

/-- With posting depth 8 a waiting read is the candidate itself unless the queue holds a word of its block, or is full. -/
theorem Port.candidate_read {a : WordAddr} {d : Nat} (h : pt.pending = some { op := .read a, wait := .waiting d }) :
    pt.candidate true =
      if (∃ w ∈ pt.queue, w.addr.toNat / 64 = a.toNat / 64) ∨ 8 ≤ pt.queue.length then some .queueHead
      else some .pendingRequest := by
  have blocked : pt.queue.any (fun w => sameBlock w.addr a) = true ∨ Config.postedDepth ≤ pt.queue.length ↔
      (∃ w ∈ pt.queue, w.addr.toNat / 64 = a.toNat / 64) ∨ 8 ≤ pt.queue.length := by
    simp only [List.any_eq_true, sameBlock, beq_iff_eq]
    rfl
  have nonempty : (∃ w ∈ pt.queue, w.addr.toNat / 64 = a.toNat / 64) ∨ 8 ≤ pt.queue.length → pt.queue ≠ [] := by
    rintro (⟨w, hw, _⟩ | full) empty
    · simp [empty] at hw
    · simp [empty] at full
  simp only [Port.candidate, h, if_true, Bool.or_eq_true, decide_eq_true_eq, blocked, List.isEmpty_iff]
  split
  · rw [if_neg (nonempty ‹_›)]
  · rfl

/-- With posting depth 0 only a waiting request is a candidate. -/
theorem Port.candidate_unposted (h : pt.pending = none ∨ ∃ op, pt.pending = some { op, wait := .issued }) :
    pt.candidate false = none := by
  rcases h with h | ⟨op, h⟩ <;> simp [Port.candidate, h]

theorem Port.candidate_unposted_waiting {op : PendingOp} {d : Nat}
    (h : pt.pending = some { op, wait := .waiting d }) : pt.candidate false = some .pendingRequest := by
  simp [Port.candidate, h]

end

/-- Settles O13. -/
theorem candidateTable : Obligations.CandidateTable := by
  intro pt
  refine ⟨fun none empty => ?_, fun none held => ?_, fun a d read apart => ⟨fun room => ?_, fun full => ?_⟩,
    fun a d read same => ?_, fun w d write held => ?_, fun op issued => ⟨fun empty => ?_, fun held => ?_⟩,
    fun none => Port.candidate_unposted (.inl none), fun op issued => Port.candidate_unposted (.inr ⟨op, issued⟩),
    fun op d waiting => Port.candidate_unposted_waiting waiting⟩
  · rw [Port.candidate_queue (.inl none), if_pos empty]
  · rw [Port.candidate_queue (.inl none), if_neg held]
  · rw [Port.candidate_read read, if_neg]
    rintro (⟨w, hw, same⟩ | full)
    · exact apart w hw same
    · exact Nat.not_le.mpr room full
  · rw [Port.candidate_read read, if_pos (.inr full)]
  · rw [Port.candidate_read read, if_pos (.inl same)]
  · rw [Port.candidate_queue (.inr (.inr ⟨w, d, write⟩)), if_neg held]
  · rw [Port.candidate_queue (.inr (.inl ⟨op, issued⟩)), if_pos empty]
  · rw [Port.candidate_queue (.inr (.inl ⟨op, issued⟩)), if_neg held]

end Sys2Proof.Machine
end

section
/-! Completions of the oldest access (R40, R41) and the memory timeout (R42 to R44), with the answers they give a port. -/

namespace Sys2Proof.Machine

/-! ### An answer beside the memory port -/

/-- A port answered after the oldest access has left the list. -/
theorem State.popInflight_answerPort (s : State) (rest : List Access) (p : PortId) (a : Answer) :
    (s.popInflight rest).answerPort p a =
      { s.setPort p { s.port p with pending := none, answers := (s.port p).answers ++ [a] } with
        memPort := { s.memPort with inflight := rest } } := by
  cases p <;> rfl

theorem State.answerPort_recordFault (s : State) (p : PortId) (a : Answer) (k : FaultKind) (o : Origin) (l : Location) :
    (s.recordFault k o l).answerPort p a = (s.answerPort p a).recordFault k o l := by
  rw [State.answerPort, State.recordFault_port, State.setPort_recordFault, State.answerPort]

/-! ### A read outside the regions (R26, R40) -/

/-- A read outside the regions records its decode's fault and is delivered; the tracker has no part in it. -/
theorem State.completeRead_outside {s : State} {e : Access} (region : e.region = .outside) (stale : Bool)
    (x : BitVec 32) (c : BitVec 7) :
    s.completeRead e stale x c = (s.recordReadDecode e (decodeWord s.straps.eccen x c).outcome).deliverRead e stale
      (decodeWord s.straps.eccen x c) := by
  simp only [State.completeRead, region, ne_eq, not_true_eq_false, false_and, if_false]

/-- Settles O18. -/
theorem portReadCompletes : Obligations.PortReadCompletes := by
  intro s e rest p stale data check up inflight op origin region
  have completed : ∀ d, decodeWord s.straps.eccen data check = d → exec (.readCompletion data check) s =
      .next (s.settle (State.grantIfDrained (((s.popInflight rest).recordReadDecode e d.outcome).answerPort p
        (if d.outcome = .uncorrectable then .fail else .data d.data d.check)))) := by
    rintro d rfl
    rw [exec_readCompletion_read data check up inflight op, State.completeRead_outside region,
      State.deliverRead_port _ _ origin]
    rfl
  refine ⟨fun clean => ?_, fun eccen corrected => ?_, fun eccen lost => ?_⟩
  · rw [completed _ (decodeWord_clean clean), State.recordReadDecode, State.popInflight_answerPort]
    rfl
  · rw [completed (eccDecode data check) (by rw [eccen]; rfl), corrected, eccDecode_corrected corrected]
    simp only [State.recordReadDecode, origin, State.answerPort_recordFault, State.popInflight_answerPort, reduceCtorEq,
      if_false]
  · rw [completed (eccDecode data check) (by rw [eccen]; rfl), lost]
    simp only [State.recordReadDecode, origin, region, Requester.origin, State.answerPort_recordFault,
      State.popInflight_answerPort, if_true]

/-! ### A write's completion (R25, R41) -/

theorem exec_writeCompletion {s : State} (up : s.up = true) :
    exec .writeCompletion s = .next (s.settle s.writeCompletes) := by
  simp only [exec, execWriteCompletion, up, if_true]

section

variable {s : State} {e : Access} {rest : List Access} (inflight : s.memPort.inflight = e :: rest)
include inflight

theorem State.writeCompletes_posted {w : WriteWord} {p : PortId} (op : e.op = .write w true) (origin : e.origin = .port p) :
    s.writeCompletes = (s.popInflight rest).grantIfDrained := by
  simp only [State.writeCompletes, inflight, op, origin, if_true]

theorem State.writeCompletes_answered {w : WriteWord} {p : PortId} (op : e.op = .write w false)
    (origin : e.origin = .port p) :
    s.writeCompletes =
      ((s.popInflight rest).answerPort p (if w.poisoned then .fail else .done)).grantIfDrained := by
  simp only [State.writeCompletes, inflight, op, origin, Bool.false_eq_true, if_false]

theorem State.writeCompletes_read {stale : Bool} (op : e.op = .read stale) : s.writeCompletes = s := by
  simp only [State.writeCompletes, inflight, op]

theorem State.readCompletes_write {w : WriteWord} {posted : Bool} (op : e.op = .write w posted) (x : BitVec 32)
    (c : BitVec 7) : s.readCompletes x c = s := by
  simp only [State.readCompletes, inflight, op]

end

/-- Settles O21. -/
theorem writeCompletes : Obligations.WriteCompletes := by
  intro s e rest up inflight
  have unchanged : s.settle s = s := State.settle_of_ports fun _ => rfl
  refine ⟨fun p w op origin => ?_, fun p w op origin => ?_, fun stale op => ?_, fun w posted data check op => ?_⟩
  · rw [exec_writeCompletion up, State.writeCompletes_posted inflight op origin, State.popInflight]
  · rw [exec_writeCompletion up, State.writeCompletes_answered inflight op origin, State.popInflight_answerPort]
  · rw [exec_writeCompletion up, State.writeCompletes_read inflight op, unchanged]
  · simp only [exec, execReadCompletion, up, if_true, State.readCompletes_write inflight op, unchanged]

/-! ### The memory timeout (R42 to R44) -/

/-- A port to which `n` accesses in flight owed an answer, once they are abandoned. -/
def Port.failed (pt : Port) (n : Nat) : Port :=
  if n = 0 then pt else { pt with pending := none, answers := pt.answers ++ List.replicate n .fail }

theorem Port.failed_zero (pt : Port) : pt.failed 0 = pt := rfl

theorem Port.failed_pos (pt : Port) {n : Nat} (h : 1 ≤ n) :
    pt.failed n = { pt with pending := none, answers := pt.answers ++ List.replicate n .fail } :=
  if_neg (Nat.ne_of_gt h)

/-- One answer FAIL before `n` more. -/
theorem Port.failed_failed_one (pt : Port) (n : Nat) : (pt.failed 1).failed n = pt.failed (n + 1) := by
  cases n with
  | zero => rfl
  | succ n =>
    rw [Port.failed_pos _ (Nat.succ_pos n), Port.failed_pos _ (Nat.le_refl 1), Port.failed_pos _ (Nat.succ_pos _)]
    simp [List.replicate_succ]

/-- An access owes a port an answer, as a test. -/
def Access.owes (p : PortId) (e : Access) : Bool :=
  decide (e.origin = .port p) &&
    match e.op with
    | .read _ => true
    | .write _ posted => !posted

theorem Access.owes_iff (p : PortId) (e : Access) : e.owes p = true ↔ e.OwesAnswer p := by
  obtain ⟨origin, op, addr, region, issueTime, deadline⟩ := e
  cases op <;> simp [Access.owes, Access.OwesAnswer]

theorem State.answerFail_port (s : State) (q p : PortId) :
    (s.answerPort q .fail).port p = (s.port p).failed (if q = p then 1 else 0) := by
  rw [State.answerPort, State.port_setPort]
  split
  · subst_vars
    rfl
  · rfl

theorem State.writeFailed_failed (s : State) (q p : PortId) (posted : Bool) :
    (s.writeFailed q posted).port p = (s.port p).failed (if q = p ∧ posted = false then 1 else 0) := by
  cases posted with
  | false =>
    simp only [and_true]
    exact s.answerFail_port q p
  | true => simp [State.writeFailed, Port.failed_zero]

/-- The port an abandoned access leaves: answered FAIL where the access owed it an answer, and otherwise as it was (R44). -/
theorem State.abandon_port (s : State) (e : Access) (p : PortId) :
    (s.abandon e).port p = (s.port p).failed (if e.owes p then 1 else 0) := by
  cases origin : e.origin with
  | fetch =>
    have owes : e.owes p = false := by simp [Access.owes, origin]
    rw [owes]
    cases op : e.op with
    | read stale =>
      rw [State.abandon_fetchRead origin op, (State.addReread_only ..).port (by decide) (by decide),
        (s.fetchLost_only _).port (by decide) (by decide)]
      rfl
    | write w posted =>
      simp only [State.abandon, origin, op]
      rfl
  | port q =>
    cases op : e.op with
    | read stale =>
      have owes : e.owes p = decide (q = p) := by simp [Access.owes, origin, op]
      rw [State.abandon_portRead origin op, State.recordFault_port, State.answerFail_port, owes]
      simp only [decide_eq_true_eq]
    | write w posted =>
      have owes : e.owes p = decide (q = p ∧ posted = false) := by simp [Access.owes, origin, op]
      simp only [owes, decide_eq_true_eq, ← s.writeFailed_failed]
      by_cases region : e.region = .outside
      · rw [State.abandon_outsideWrite origin op region]
      · rw [State.abandon_regionWrite origin op region, (State.addReread_only ..).port (by decide) (by decide),
          State.writeLost_port]

/-- The accesses in flight abandoned in issue order leave a port with one answer FAIL for each that owed it one. -/
theorem State.abandonAll_port (p : PortId) (l : List Access) (s : State) :
    (l.foldl State.abandon s).port p = (s.port p).failed (l.countP (Access.owes p)) := by
  induction l generalizing s with
  | nil => rfl
  | cons e l ih =>
    rw [List.foldl_cons, ih, State.abandon_port, List.countP_cons]
    cases e.owes p
    · rfl
    · exact (s.port p).failed_failed_one _

/-- One access that alone owes a port an answer counts once. -/
theorem countP_owes_le_one {p : PortId} {es l r : List Access} {x : Access} (parts : es = l ++ x :: r)
    (others : ∀ y ∈ l ++ r, ¬ y.OwesAnswer p) : es.countP (Access.owes p) ≤ 1 := by
  have uncounted : (l ++ r).countP (Access.owes p) = 0 :=
    List.countP_eq_zero.mpr fun y hy owed => others y hy ((Access.owes_iff p y).mp owed)
  rw [List.countP_append] at uncounted
  rw [parts, List.countP_append, List.countP_cons]
  split <;> omega

section

variable {s : State} {e : Access} {rest : List Access} (inflight : s.memPort.inflight = e :: rest)
include inflight

theorem State.memoryTimesOut_early (early : s.now < e.deadline) : s.memoryTimesOut = s := by
  simp only [State.memoryTimesOut, inflight, if_neg (Nat.not_le.mpr early)]

variable (due : e.deadline ≤ s.now)
include due

theorem State.memoryTimesOut_due :
    s.memoryTimesOut = ((e :: rest).foldl State.abandon (s.popInflight [])).grantIfDrained := by
  simp only [State.memoryTimesOut, inflight, if_pos due]

/-- What the abandoned accesses leave beside the ports: the list emptied, the loan not yet looked to. -/
theorem State.memoryTimesOut_bus_due :
    s.memoryTimesOut.memPort = { s.memPort with inflight := [] } ∧
      s.memoryTimesOut.loan = if s.loan = .requested then .granted else s.loan := by
  have dropped := State.Only.foldl State.abandon State.abandon_only (e :: rest) (s.popInflight [])
  have memPort := dropped.memPort (by decide)
  have loan := dropped.loan (by decide)
  rw [State.memoryTimesOut_due inflight due, State.grantIfDrained_loan, (State.grantIfDrained_only _).memPort (by decide),
    memPort, loan]
  simp [State.popInflight]

theorem State.memoryTimesOut_port (p : PortId) :
    s.memoryTimesOut.port p = (s.port p).failed ((e :: rest).countP (Access.owes p)) := by
  rw [State.memoryTimesOut_due inflight due, (State.grantIfDrained_only _).port (by decide) (by decide),
    State.abandonAll_port, (s.popInflight_only _).port (by decide) (by decide)]

end

theorem exec_memoryTimeout {s : State} (up : s.up = true) :
    exec .memoryTimeout s = .next (s.settle s.memoryTimesOut) := by
  simp only [exec, execMemoryTimeout, up, if_true]

/-- Settles O22: a port is answered FAIL as often as the accesses in flight that owed it an answer
(`State.memoryTimesOut_port`); the rest is what the event leaves of the memory port, and its frame. -/
theorem memoryTimeoutAbandonsAll : Obligations.MemoryTimeoutAbandonsAll := by
  intro s e rest up inflight
  refine ⟨fun due => ?due, fun early => ?early⟩
  case early =>
    rw [exec_memoryTimeout up, State.memoryTimesOut_early inflight early, State.settle_of_ports fun _ => rfl]
  case due =>
    obtain ⟨memPort, loan⟩ := State.memoryTimesOut_bus_due inflight due
    have port := State.memoryTimesOut_port inflight due
    refine ⟨s.memoryTimesOut, exec_memoryTimeout up, State.memoryTimesOut_due inflight due, memPort, fun p owed => ?_,
      fun p unowed => ?_, loan, s.memoryTimesOut_only⟩
    · obtain ⟨x, hx, owes⟩ := owed
      have counted : 1 ≤ (e :: rest).countP (Access.owes p) :=
        List.countP_pos_iff.mpr ⟨x, hx, (Access.owes_iff p x).mpr owes⟩
      refine ⟨_, counted, (port p).trans (Port.failed_pos _ counted), ?_⟩
      rintro ⟨l, y, r, parts, others⟩
      exact Nat.le_antisymm (countP_owes_le_one parts others) counted
    · have uncounted : (e :: rest).countP (Access.owes p) = 0 :=
        List.countP_eq_zero.mpr fun x hx owes => unowed x hx ((Access.owes_iff p x).mp owes)
      rw [port, uncounted, Port.failed_zero]

end Sys2Proof.Machine
end

section
/-! The part with RSTN low (R35, R54, R84), the fall of RSTN, the reset state against the conditions of Safety.lean, and a step
with no command waiting (log entry 2). -/

namespace Sys2Proof.Machine

/-! ### RSTN low -/

theorem State.up_inReset {s : State} (h : s.device = .inReset) : s.up = false := by
  rw [State.up, h]
  rfl

/-- LOANREQ asserted while RSTN is low leaves its level and nothing else (R54). -/
theorem State.loanAsked_down {s : State} (down : s.up = false) : s.loanAsked = { s with loanReq := true } := by
  have lowered : ({ s with loanReq := true } : State).up = false := down
  rw [State.loanAsked, if_neg (by simp [lowered])]

/-- LOANREQ deasserted while RSTN is low leaves its level and nothing else. -/
theorem State.loanDropped_down {s : State} (down : s.up = false) : s.loanDropped = { s with loanReq := false } := by
  have lowered : ({ s with loanReq := false } : State).up = false := down
  rw [State.loanDropped, if_neg (by simp [lowered])]

/-- Every command but the rise of RSTN and those of the LOANREQ input asks for RSTN high, and changes nothing without it. -/
theorem exec_down {c : Instr} {s : State} (reset : s.device = .inReset) (rise : ∀ pins, c ≠ .rstnRise pins)
    (request : c ≠ .loanRequest) (loanEnd : c ≠ .loanEnd) (withdrawal : c ≠ .loanWithdrawal) :
    exec c s = .next s := by
  have down := State.up_inReset reset
  cases c
  case rstnRise pins => exact absurd rfl (rise pins)
  case loanRequest => exact absurd rfl request
  case loanEnd => exact absurd rfl loanEnd
  case loanWithdrawal => exact absurd rfl withdrawal
  case selftestCompletion pass => exact congrArg Host.Outcome.next (if_neg (by simp [reset]))
  all_goals exact congrArg Host.Outcome.next (if_neg (by simp [down]))

/-- Settles O4. -/
theorem heldInResetNothingActs : Obligations.HeldInResetNothingActs := by
  intro c s reset rise
  have down := State.up_inReset reset
  have asked : exec .loanRequest s = .next { s with loanReq := true } :=
    congrArg Host.Outcome.next (State.loanAsked_down down)
  have ended : exec .loanEnd s = .next { s with loanReq := false } :=
    congrArg Host.Outcome.next (State.loanDropped_down down)
  have withdrawn : exec .loanWithdrawal s = .next { s with loanReq := false } := ended
  by_cases request : c = .loanRequest
  · exact ⟨true, request ▸ asked, fun h => absurd request h⟩
  by_cases loanEnd : c = .loanEnd
  · exact ⟨false, loanEnd ▸ ended, fun _ h => absurd loanEnd h⟩
  by_cases withdrawal : c = .loanWithdrawal
  · exact ⟨false, withdrawal ▸ withdrawn, fun _ _ h => absurd withdrawal h⟩
  exact ⟨s.loanReq, exec_down reset rise request loanEnd withdrawal, fun _ _ _ => rfl⟩

/-- Settles O6. -/
theorem rstnFallResetsThePart : Obligations.RstnFallResetsThePart := by
  intro s up
  rw [exec, execRstnFall, if_pos up, State.heldInReset]

/-! ### The reset state and the conditions -/

theorem Channel.reset_digestSum : Channel.reset.digestSum = 0 :=
  Channel.reset.digestSum_unassigned fun _ => rfl

/-- A channel unit as RSTN leaves it meets each condition on a channel. -/
theorem Channel.reset_sound :
    Channel.reset.Resting ∧ Channel.reset.DigestSound ∧ Channel.reset.CountsInRange ∧ Channel.reset.QuietOffAir := by
  refine ⟨.inl rfl, ⟨by decide, by simp [Channel.reset], by decide, Channel.reset_digestSum.symm⟩, by decide, fun _ _ => ?_⟩
  decide

/-- Settles O60. -/
theorem resetMeetsEveryCondition : Obligations.ResetMeetsEveryCondition := by
  obtain ⟨resting, digest, counts, quiet⟩ := Channel.reset_sound
  refine ⟨fun n _ => ?faults, by decide, by decide, by decide, by simp [State.TakesSound, State.reset], ?canonical,
    fun _ c _ => resting, fun c _ => digest, fun c _ => counts, fun c _ => quiet, fun p _ => ?turn,
    fun o _ => (State.reset_quality o).1, fun o _ => (State.reset_quality o).2⟩
  case faults =>
    rw [State.reset_classState]
    exact ClassState.clear_consistent
  case canonical =>
    exact ⟨Table.wf_nil _, Table.wf_nil _, Table.wf_nil _, Table.wf_nil _, fun c _ => Table.wf_nil _⟩
  case turn =>
    rw [State.reset_port]
    rfl

/-! ### A step with no command waiting (log entry 2) -/

theorem step_idle {s : State} (empty : s.pending = []) : step s = idle s := by
  simp only [step, empty]

theorem idle_down {s : State} (down : s.up = false) : idle s = .next s := by
  simp only [idle, down, Bool.false_eq_true, if_false]

/-- A port found free with requests presented takes them, port A first. -/
theorem idle_presented {s : State} {p : PortId} (up : s.up = true) (due : s.presentedDue p = true)
    (first : p = .b → s.presentedDue .a = false) : idle s = .next (s.takePresented p) := by
  cases p with
  | a => simp only [idle, up, due, if_true]
  | b => simp only [idle, up, due, first rfl, if_true, Bool.false_eq_true, if_false]

theorem idle_due {s : State} {c : Instr} (up : s.up = true) (a : s.presentedDue .a = false)
    (b : s.presentedDue .b = false) (due : s.dueCommand = some c) : idle s = exec c s := by
  simp only [idle, up, a, b, due, if_true, Bool.false_eq_true, if_false]

theorem idle_tick {s : State} (up : s.up = true) (a : s.presentedDue .a = false) (b : s.presentedDue .b = false)
    (none : s.dueCommand = none) : idle s = .next s.tick := by
  simp only [idle, up, a, b, none, if_true, Bool.false_eq_true, if_false]

/-- Settles O2: what a free port takes is its first request, as CONTROL_REQUEST takes it, and then those behind it. -/
theorem emptyQueueStep : Obligations.EmptyQueueStep := by
  intro s empty
  rw [step_idle empty]
  refine ⟨idle_down, fun p r rest up presented free first => ?taken,
    fun up a b => ⟨fun c due => idle_due up a b due, fun none => idle_tick up a b none⟩⟩
  have due : s.presentedDue p = true := by simp [State.presentedDue, presented, free]
  have command : exec (.controlRequest p r) (s.setPort p { s.port p with presented := [] }) =
      .next ((s.setPort p { s.port p with presented := [] }).presentRequest p r) :=
    exec_controlRequest r (by rw [State.setPort_up, up]) (.inr (by rw [State.port_setPort_same]))
  have taken : idle s =
      .next (rest.foldl (fun acc x => acc.presentRequest p x)
        ((s.setPort p { s.port p with presented := [] }).presentRequest p r)) := by
    rw [idle_presented up due first, State.takePresented_free free, presented, List.foldl_cons]
  refine ⟨fun alone => ?_, _, command, taken⟩
  rw [taken, command, alone, List.foldl_nil]

end Sys2Proof.Machine
end

section
/-! The arbiter's choice (R46), the end of a fetch read's completion (R64 to R68), and the loan (R49 to R54). -/

namespace Sys2Proof.Machine

/-! ### The arbiter (R46) -/

/-- Between two candidates the port other than the last granted one is chosen. -/
theorem State.grantPort_both {s : State} {x y : Candidate} (a : s.candidate .a = some x) (b : s.candidate .b = some y) :
    s.grantPort = some (if s.memPort.lastGranted = .b then .port .a x else .port .b y) := by
  simp only [State.grantPort, a, b]
  cases s.memPort.lastGranted <;> rfl

theorem State.grantPort_onlyA {s : State} {x : Candidate} (a : s.candidate .a = some x) (b : s.candidate .b = none) :
    s.grantPort = some (.port .a x) := by
  simp only [State.grantPort, a, b]

theorem State.grantPort_onlyB {s : State} {y : Candidate} (a : s.candidate .a = none) (b : s.candidate .b = some y) :
    s.grantPort = some (.port .b y) := by
  simp only [State.grantPort, a, b]

theorem State.grantPort_none {s : State} (a : s.candidate .a = none) (b : s.candidate .b = none) : s.grantPort = none := by
  simp only [State.grantPort, a, b]

/-- A starved fetch read goes before the ports. -/
theorem State.arbitrate_starved {s : State} {a : WordAddr} (waiting : s.fetchWaiting = some a) (limited : s.params.ls < 255)
    (starved : s.params.ls ≤ s.memPort.starvation) : s.arbitrate = some (.fetch a) := by
  simp only [State.arbitrate, waiting]
  exact if_pos ⟨limited, starved⟩

/-- With no starved fetch read the ports go first, and the fetch read has what they leave. -/
theorem State.arbitrate_unstarved {s : State}
    (h : s.fetchWaiting = none ∨ s.params.ls = 255 ∨ s.memPort.starvation < s.params.ls) :
    s.arbitrate = s.grantPort.or (s.fetchWaiting.map .fetch) := by
  unfold State.arbitrate
  cases waiting : s.fetchWaiting with
  | none => exact (Option.or_none ..).symm
  | some a =>
    have unstarved : ¬ (s.params.ls < 255 ∧ s.params.ls ≤ s.memPort.starvation) := by
      have := h.resolve_left (by simp [waiting])
      omega
    dsimp only
    rw [if_neg unstarved]
    cases s.grantPort <;> rfl

/-- Settles O14. -/
theorem arbiterChoice : Obligations.ArbiterChoice := by
  refine fun s => ⟨fun a => State.arbitrate_starved, fun unstarved => ?_⟩
  rw [State.arbitrate_unstarved unstarved]
  refine ⟨fun x y a b => ⟨fun last => ?_, fun last => ?_⟩, fun x a b => ?_, fun y a b => ?_, fun w a b waiting => ?_,
    fun a b idle => ?_⟩
  · rw [State.grantPort_both a b, last]
    rfl
  · rw [State.grantPort_both a b, last]
    rfl
  · rw [State.grantPort_onlyA a b]
    rfl
  · rw [State.grantPort_onlyB a b]
    rfl
  · rw [State.grantPort_none a b, waiting]
    rfl
  · rw [State.grantPort_none a b, idle]
    rfl

/-! ### The end of a fetch read (R64 to R68) -/

/-- The fetch engine after a word is put on the re-read list (R65, R66). -/
theorem State.addReread_fetch (s : State) (a : WordAddr) :
    (s.addReread a).fetch =
      if a ∈ s.fetch.reread then s.fetch
      else if s.fetch.reread.length < Config.rereadMax then { s.fetch with reread := s.fetch.reread ++ [a] }
      else { sweep := if s.live then firstSweep s.straps else s.fetch.sweep, reread := [] } := by
  split
  · rw [State.addReread_listed ‹_›]
  · split
    · rw [State.addReread_joins ‹_› ‹_›]
    · rw [State.addReread_overflow_fetch ‹_› (Nat.not_lt.mp ‹_›)]

/-- Where a word put on the re-read list leaves the fetch engine rests on the engine, the device state and the straps. -/
theorem State.addReread_fetch_congr {s t : State} (fetch : t.fetch = s.fetch) (device : t.device = s.device)
    (straps : t.straps = s.straps) (a : WordAddr) : (t.addReread a).fetch = (s.addReread a).fetch := by
  rw [State.addReread_fetch, State.addReread_fetch, State.live, State.live, fetch, device, straps]

/-- An entry of a word is UNKNOWN or UNVERIFIED (R68). -/
def State.Short (s : State) (a : WordAddr) : Prop :=
  (∃ o, Straps.xpOffset s.straps a = some o ∧
      (s.crosspointQuality o = .unknown ∨ ∃ h, s.crosspointQuality o = .unverified h)) ∨
    ∃ o, Straps.nameOffset s.straps a = some o ∧ (s.nameQuality o = .unknown ∨ ∃ h, s.nameQuality o = .unverified h)

theorem Quality.short_iff {α : Type} (q : Quality α) : q.short = true ↔ q = .unknown ∨ ∃ h, q = .unverified h := by
  cases q <;> simp [Quality.short]

theorem State.short_iff (s : State) (a : WordAddr) : s.anyQuality a Quality.short Quality.short = true ↔ s.Short a := by
  simp only [State.anyQuality_iff, Quality.short_iff, State.Short]

theorem State.short_congr {s t : State} (shadow : t.shadow = s.shadow) (straps : t.straps = s.straps) (a : WordAddr) :
    t.Short a ↔ s.Short a := by
  simp only [State.Short, State.crosspointQuality, State.nameQuality, shadow, straps]

theorem State.finishFetch_short (s : State) (a : WordAddr) : s.finishFetch.Short a ↔ s.Short a :=
  State.short_congr (s.finishFetch_only.shadow (by decide)) (s.finishFetch_only.straps (by decide)) a

section

variable {s : State} {e : Access} (origin : e.origin = .fetch)
include origin

/-- A fetch read that is not stale, or that leaves no entry of its word short, is finished by its delivery (R67, R68). -/
theorem State.deliverRead_finishes {stale : Bool} (d : Decoded) (h : stale = true → ¬ s.Short e.addr) :
    s.deliverRead e stale d = s.finishFetch := by
  simp only [State.deliverRead, origin]
  refine if_neg fun relisted => ?_
  obtain ⟨dropped, short⟩ := Bool.and_eq_true_iff.mp relisted
  exact h dropped ((s.finishFetch_short _).mp ((State.short_iff ..).mp short))

/-- A stale fetch read that leaves an entry of its word short puts the word on the re-read list, once finished (R68). -/
theorem State.deliverRead_relists (d : Decoded) (short : s.Short e.addr) :
    s.deliverRead e true d = s.finishFetch.addReread e.addr := by
  simp only [State.deliverRead, origin]
  exact if_pos (Bool.and_eq_true_iff.mpr ⟨rfl, (State.short_iff ..).mpr ((s.finishFetch_short _).mpr short)⟩)

/-- The delivery of a fetch read touches no port, and raises the SWEEP event where the sweep was ENDING (R64). -/
theorem State.deliverRead_fetch (stale : Bool) (d : Decoded) :
    s.Only [.fetch, .mgmt, .faults] (s.deliverRead e stale d) ∧
      (s.deliverRead e stale d).mgmt = { s.mgmt with sweep := s.mgmt.sweep || decide (s.fetch.sweep = .ending) } := by
  have finished : s.Only [.fetch, .mgmt, .faults] s.finishFetch := s.finishFetch_only.mono (by decide)
  by_cases h : stale = true → ¬ s.Short e.addr
  · rw [State.deliverRead_finishes origin d h]
    exact ⟨finished, s.finishFetch_mgmt⟩
  · obtain ⟨rfl, short⟩ := Classical.not_imp.mp h
    have listed := s.finishFetch.addReread_only e.addr
    rw [State.deliverRead_relists origin d (not_not.mp short)]
    exact ⟨finished.trans (listed.mono (by decide)), (listed.mgmt (by decide)).trans s.finishFetch_mgmt⟩

end

/-- A completed read is delivered after the tracker's part and the decode's fault, and a stale one leaves the shadow until
then (R8, R40). -/
theorem State.completeRead_delivered (s : State) (e : Access) (stale : Bool) (x : BitVec 32) (c : BitVec 7) :
    ∃ u, s.Only [.shadow, .gather, .faults] u ∧ (stale = true → u.shadow = s.shadow) ∧
      s.completeRead e stale x c = u.deliverRead e stale (decodeWord s.straps.eccen x c) := by
  by_cases region : e.region = .outside
  · have recorded := s.recordReadDecode_only e (decodeWord s.straps.eccen x c).outcome
    exact ⟨_, recorded.mono (by decide), fun _ => recorded.shadow (by decide),
      State.completeRead_outside region stale x c⟩
  · exact ⟨_, s.readTracked_only e stale _, fun dropped => (s.readTracked_dropped _ (.inl dropped)).1,
      State.completeRead_region region stale x c⟩

/-- Settles O20. -/
theorem fetchReadFinishes : Obligations.FetchReadFinishes := by
  rintro s e rest stale data check finished up inflight op origin rfl
  obtain ⟨u, before, kept, delivered⟩ := (s.popInflight rest).completeRead_delivered e stale data check
  generalize decodeWord (s.popInflight rest).straps.eccen data check = d at delivered
  obtain ⟨delivery, mgmt⟩ := State.deliverRead_fetch (s := u) origin stale d
  have fetch : u.fetch = s.fetch := before.fetch (by decide)
  have finishes : u.finishFetch.fetch =
      { s.fetch with sweep := if s.fetch.sweep = .ending then .idle else s.fetch.sweep } := by
    rw [u.finishFetch_fetch, fetch]
  refine ⟨_, exec_readCompletion_read data check up inflight op, ?_⟩
  rw [delivered]
  refine ⟨(delivery.memPort (by decide)).trans (before.memPort (by decide)), ?mgmt, fun fresh => ?fresh,
    fun short hshort dropped => ?dropped, fun p => ?port⟩
  case mgmt =>
    rw [mgmt, fetch, before.mgmt (by decide)]
    rfl
  case fresh =>
    subst fresh
    rw [State.deliverRead_finishes origin _ (by simp), finishes]
  case dropped =>
    subst dropped
    have same : u.Short e.addr ↔ s.Short e.addr := State.short_congr (kept rfl) (before.straps (by decide)) e.addr
    refine ⟨fun other => ?_, fun hit => ?_⟩
    · rw [State.deliverRead_finishes origin _ fun _ h => other (hshort.mpr (same.mp h)), finishes]
    · rw [State.deliverRead_relists origin _ (same.mpr (hshort.mp hit))]
      exact State.addReread_fetch_congr (s := { s with fetch := _ }) finishes
        ((u.finishFetch_only.device (by decide)).trans (before.device (by decide)))
        ((u.finishFetch_only.straps (by decide)).trans (before.straps (by decide))) e.addr
  case port =>
    rw [delivery.port (by decide) (by decide), before.port (by decide) (by decide)]
    cases p <;> rfl

/-! ### The loan (R49 to R54) -/

theorem State.loanWant_iff (s : State) : s.loanWant = true ↔ s.loan = .granted ∧ ∃ p x, s.candidate p = some x := by
  have candidates : (∃ p x, s.candidate p = some x) ↔
      (s.candidate .a).isSome = true ∨ (s.candidate .b).isSome = true := by
    simp only [Option.isSome_iff_exists]
    refine ⟨fun ⟨p, x, h⟩ => ?_, fun h => ?_⟩
    · cases p with
      | a => exact .inl ⟨x, h⟩
      | b => exact .inr ⟨x, h⟩
    · rcases h with ⟨x, h⟩ | ⟨x, h⟩
      · exact ⟨.a, x, h⟩
      · exact ⟨.b, x, h⟩
  rw [State.loanWant, Bool.and_eq_true, Bool.or_eq_true, decide_eq_true_iff, candidates]

/-- With RSTN low no loan stands and the memory lines are not driven (R54). -/
theorem State.heldInReset_lines (s : State) :
    s.heldInReset.loanAck = false ∧ s.heldInReset.loanWant = false ∧ s.heldInReset.drivesMemory = false :=
  ⟨rfl, rfl, rfl⟩

theorem State.grantIfDrained_of_not {s : State} (h : s.loan ≠ .requested ∨ s.memPort.inflight ≠ []) :
    s.grantIfDrained = s :=
  if_neg fun drained => h.elim (· drained.1) (· drained.2)

theorem exec_loanGrant {s : State} (up : s.up = true) : exec .loanGrant s = .next s.grantIfDrained :=
  congrArg Host.Outcome.next (if_pos up)

/-- A request waits while an access is in flight (R49). -/
theorem State.loanAsked_of_busy {s : State} (up : s.up = true) (h : s.loan = .none) (busy : s.memPort.inflight ≠ []) :
    s.loanAsked = { s with loanReq := true, loan := .requested } := by
  have raised : ({ s with loanReq := true } : State).up = true := up
  rw [State.loanAsked, if_pos ⟨raised, h⟩]
  exact State.grantIfDrained_of_not (.inr busy)

theorem State.loanAsked_of_loan {s : State} (h : s.loan ≠ .none) : s.loanAsked = { s with loanReq := true } :=
  if_neg fun ready => h ready.2

section

variable {s : State} (up : s.up = true)
include up

/-- LOANREQ deasserted in GRANTED ends the loan, and the sweep starts again while the tracker is live (R52). -/
theorem State.loanDropped_granted (h : s.loan = .granted) :
    s.loanDropped = ({ s with loanReq := false, loan := .none } : State).restartSweep := by
  have lowered : ({ s with loanReq := false } : State).up = true := up
  rw [State.loanDropped, if_pos lowered]
  simp only [h]

/-- LOANREQ deasserted in REQUESTED withdraws the request (R53). -/
theorem State.loanDropped_requested (h : s.loan = .requested) :
    s.loanDropped = { s with loanReq := false, loan := .none } := by
  have lowered : ({ s with loanReq := false } : State).up = true := up
  rw [State.loanDropped, if_pos lowered]
  simp only [h]

theorem State.loanDropped_none (h : s.loan = .none) : s.loanDropped = { s with loanReq := false } := by
  have lowered : ({ s with loanReq := false } : State).up = true := up
  rw [State.loanDropped, if_pos lowered]
  simp only [h]

end

/-- Settles O24. -/
theorem loanSteps : Obligations.LoanSteps := by
  refine ⟨fun s => ⟨decide_eq_true_iff, s.loanWant_iff, ?drives, ?fall⟩, fun s up => ⟨fun none busy => ?waits,
    fun none empty => ?granted, fun other => ?kept, State.grantIfDrained_of_drained, State.grantIfDrained_of_not,
    fun asked empty => ?commanded, fun not => ?idle, fun c row => ?dropped⟩⟩
  case drives => rw [State.drivesMemory, Bool.and_eq_true, decide_eq_true_iff]
  case fall =>
    refine ⟨_, rfl, fun up => ?_⟩
    rw [if_pos up]
    exact s.heldInReset_lines
  case waits => exact congrArg Host.Outcome.next (State.loanAsked_of_busy up none busy)
  case granted => exact congrArg Host.Outcome.next (State.loanAsked_of_drained up none empty)
  case kept => exact congrArg Host.Outcome.next (State.loanAsked_of_loan other)
  case commanded =>
    rw [exec_loanGrant up, State.grantIfDrained_of_drained asked empty]
    rfl
  case idle => rw [exec_loanGrant up, State.grantIfDrained_of_not not]
  case dropped =>
    have dropped : exec c s = .next s.loanDropped := by
      rcases row with rfl | rfl <;> rfl
    rw [dropped]
    refine ⟨fun granted live => ?_, fun granted dead => ?_, fun asked => ?_, fun none => ?_⟩
    · rw [State.loanDropped_granted up granted, State.restartSweep]
      exact congrArg Host.Outcome.next (if_pos live)
    · have notLive : ¬ s.live = true := by simp [dead]
      rw [State.loanDropped_granted up granted, State.restartSweep]
      exact congrArg Host.Outcome.next (if_neg notLive)
    · rw [State.loanDropped_requested up asked]
    · rw [State.loanDropped_none up none]

end Sys2Proof.Machine
end

section
/-! The rise of RSTN (R54, R55, R57, R58, R154): the straps and return lines sampled, the start-up checks with BIST = 0, and
a LOANREQ found standing. -/

namespace Sys2Proof

theorem Table.tabulate_congr {α : Type} [DecidableEq α] (d : α) {n : Nat} {f g : Nat → α}
    (h : ∀ k, k < n → f k = g k) : Table.tabulate d n f = Table.tabulate d n g :=
  List.filterMap_congr fun k hk => by rw [h k (List.mem_range.mp hk)]

theorem Table.set_nil {α : Type} [DecidableEq α] {d v : α} (k : Nat) (h : v ≠ d) : Table.set d [] k v = [(k, v)] :=
  if_neg h

end Sys2Proof

namespace Sys2Proof.Machine

/-! ### The channel units as RSTN rises (R154) -/

/-- A channel unit just risen waits for mark exactly where its return line is found at space. -/
theorem Channel.risen_rxAwaitMark (level : Bool) :
    ({ Channel.reset with rxWire := level } : Channel).rxAwaitMark = !level := by
  cases level <;> rfl

/-- A channel unit just risen rests already, so the stop effects leave it. -/
theorem Channel.risen_stopEffects (level : Bool) :
    ({ Channel.reset with rxWire := level } : Channel).stopEffects = { Channel.reset with rxWire := level } := by
  cases level <;> decide

theorem State.mapChans_stopEffects_risen {s : State} {lines : BitVec 16} (risen : s.chans = risenChannels lines) :
    s.mapChans (fun _ ch => ch.stopEffects) = s := by
  have chans : Table.tabulate Channel.reset Config.channels (fun c => (s.chan c).stopEffects) = s.chans := by
    rw [risen]
    refine Table.tabulate_congr _ fun c hc => ?_
    rw [State.chan, risen, get_risenChannels lines hc, Channel.risen_stopEffects]
  rw [State.mapChans, chans]

/-! ### The start-up (R55, R57, R58) -/

/-- What RSTN's rise makes of the blocks that do not just take their reset values. -/
structure StartUp where
  device : Device
  fetch : Fetch
  faults : Table ClassState

/-- The fetch engine with the sweep at its first word (R62). -/
def Fetch.fromFirst (p : Straps) : Fetch := { sweep := firstSweep p, reread := [] }

/-- What HALT 0x51 records as RSTN rises (R58). -/
def overlapCapture (p : Straps) : Capture where
  kind := .regionOverlap
  origin := .selftest
  location := .word (BitVec.ofNat 22 p.xpBase)
  tag := 0

/-- The fault classes with HALT 0x51 recorded as RSTN rises, and nothing else. -/
def overlapFaults (p : Straps) : Table ClassState := [(5, ClassState.clear.record (overlapCapture p))]

theorem ClassState.record_ne_clear (st : ClassState) (c : Capture) : st.record c ≠ ClassState.clear := fun h => by
  cases congrArg ClassState.pending h

/-- The start-up that the straps ask for: SELFTEST, or the overlap check at once (R57, R58). -/
def StartUp.ofStraps (p : Straps) : StartUp :=
  if p.bist then { device := .selftest, fetch := { sweep := .idle, reread := [] }, faults := [] }
  else if p.xbase = p.nbase then { device := .halted, fetch := .fromFirst p, faults := overlapFaults p }
  else { device := .operating, fetch := .fromFirst p, faults := [] }

theorem StartUp.ofStraps_bist {p : Straps} (bist : p.bist = true) :
    StartUp.ofStraps p = { device := .selftest, fetch := { sweep := .idle, reread := [] }, faults := [] } := by
  rw [StartUp.ofStraps, if_pos bist]

theorem StartUp.ofStraps_overlap {p : Straps} (direct : p.bist = false) (equal : p.xbase = p.nbase) :
    StartUp.ofStraps p = { device := .halted, fetch := .fromFirst p, faults := overlapFaults p } := by
  rw [StartUp.ofStraps, direct, if_neg Bool.false_ne_true, if_pos equal]

theorem StartUp.ofStraps_apart {p : Straps} (direct : p.bist = false) (apart : p.xbase ≠ p.nbase) :
    StartUp.ofStraps p = { device := .operating, fetch := .fromFirst p, faults := [] } := by
  rw [StartUp.ofStraps, direct, if_neg Bool.false_ne_true, if_neg apart]

theorem StartUp.ofStraps_device (p : Straps) : (StartUp.ofStraps p).device ≠ .inReset := by
  unfold StartUp.ofStraps
  split
  · decide
  · split <;> exact nofun

/-- The start-up records nothing outside the class HALT. -/
theorem StartUp.ofStraps_faults (p : Straps) {n : Nat} (hn : n ≠ 5) :
    Table.get ClassState.clear (StartUp.ofStraps p).faults n = ClassState.clear := by
  unfold StartUp.ofStraps
  split
  · rfl
  · split
    · rw [overlapFaults, Table.get_cons, if_neg hn.symm, Table.get_nil]
    · rfl

theorem StartUp.ofStraps_fetch {p : Straps} (direct : p.bist = false) :
    (StartUp.ofStraps p).fetch = .fromFirst p := by
  rw [StartUp.ofStraps, direct, if_neg Bool.false_ne_true]
  split <;> rfl

/-- The sweep position that a loan granted at the rise records (R54, R76). -/
theorem StartUp.ofStraps_location (p : Straps) : (StartUp.ofStraps p).fetch.sweep.location =
    if p.bist then .absent else .word (BitVec.ofNat 22 p.xpBase) := by
  cases bist : p.bist with
  | true => rw [StartUp.ofStraps_bist bist]; rfl
  | false => rw [StartUp.ofStraps_fetch bist]; rfl

/-- The part risen with no loan request taken yet. -/
def State.risen (s : State) (pins : Pins) (x : StartUp) : State :=
  { State.reset with
    straps := pins.straps, loanReq := s.loanReq, pending := s.pending, chans := risenChannels pins.lines
    device := x.device, fetch := x.fetch, faults := x.faults }

/-- HALT 0x51 recorded as RSTN rises makes the part HALTED; its channels rest already. -/
theorem State.risen_recordHalt (s : State) (pins : Pins) (fetch : Fetch) :
    (s.risen pins { device := .operating, fetch, faults := [] }).recordHalt .regionOverlap
        (.word (BitVec.ofNat 22 pins.straps.xpBase)) =
      s.risen pins { device := .halted, fetch, faults := overlapFaults pins.straps } := by
  have faults := Table.set_nil 5 (ClassState.clear.record_ne_clear (overlapCapture pins.straps))
  have recorded : (s.risen pins { device := .operating, fetch, faults := [] }).recordFault .regionOverlap .selftest
      (.word (BitVec.ofNat 22 pins.straps.xpBase)) =
        s.risen pins { device := .operating, fetch, faults := overlapFaults pins.straps } :=
    congrArg (fun faults => s.risen pins { device := .operating, fetch, faults }) faults
  rw [State.recordHalt, recorded]
  exact State.mapChans_stopEffects_risen rfl

/-- RSTN's rise, up to a LOANREQ found standing, starts the part as the straps ask (R55, R57, R58). -/
theorem exec_rstnRise {s : State} (pins : Pins) (reset : s.device = .inReset) :
    exec (.rstnRise pins) s = .next (s.risen pins (StartUp.ofStraps pins.straps)).takeStandingLoan := by
  have rises : exec (.rstnRise pins) s = .next
      (if pins.straps.bist then s.sampled pins else (s.sampled pins).endStartUp true).takeStandingLoan :=
    congrArg Host.Outcome.next (if_neg (by simp [State.up_inReset reset]))
  rw [rises]
  congr 2
  cases bist : pins.straps.bist with
  | true =>
    rw [StartUp.ofStraps_bist bist]
    rfl
  | false =>
    rw [if_neg Bool.false_ne_true, State.endStartUp]
    by_cases equal : pins.straps.xbase = pins.straps.nbase
    · have overlap : Straps.overlap (s.sampled pins).straps = true := beq_iff_eq.mpr equal
      rw [StartUp.ofStraps_overlap bist equal, overlap]
      exact congrArg State.restartSweep (s.risen_recordHalt pins { sweep := .idle, reread := [] })
    · have apart : Straps.overlap (s.sampled pins).straps = false := beq_eq_false_iff_ne.mpr equal
      rw [StartUp.ofStraps_apart bist equal, apart]
      rfl

/-! ### A LOANREQ found as RSTN rises (R54) -/

theorem exec_rstnRise_low {s : State} (pins : Pins) (reset : s.device = .inReset) (low : s.loanReq = false) :
    exec (.rstnRise pins) s = .next (s.risen pins (StartUp.ofStraps pins.straps)) := by
  rw [exec_rstnRise pins reset]
  exact congrArg Host.Outcome.next (if_neg (by simp [State.risen, low]))

/-- The part risen with a standing LOANREQ granted: IMAGE 0x40 at the sweep position, beside the start-up. -/
def State.risenGranted (s : State) (pins : Pins) (x : StartUp) : State :=
  ({ s.risen pins x with loan := .granted } : State).recordFault .loanGranted .fetch x.fetch.sweep.location

theorem exec_rstnRise_high {s : State} (pins : Pins) (reset : s.device = .inReset) (high : s.loanReq = true) :
    exec (.rstnRise pins) s = .next (s.risenGranted pins (StartUp.ofStraps pins.straps)) := by
  generalize hx : StartUp.ofStraps pins.straps = x
  have up : (s.risen pins x).up = true := bne_iff_ne.mpr (hx ▸ StartUp.ofStraps_device pins.straps)
  have taken : (s.risen pins x).takeStandingLoan = (s.risen pins x).loanAsked := if_pos high
  rw [exec_rstnRise pins reset, hx, taken, State.loanAsked_of_drained up rfl rfl, State.risenGranted, State.risen, high]
  rfl

theorem State.risenGranted_classState (s : State) (pins : Pins) (x : StartUp) (n : Nat) :
    (s.risenGranted pins x).classState n =
      if 4 = n then (Table.get ClassState.clear x.faults n).record
        { kind := .loanGranted, origin := .fetch, location := x.fetch.sweep.location, tag := 0 }
      else Table.get ClassState.clear x.faults n :=
  State.classState_recordFault ..

/-- Settles O7. -/
theorem riseStartsThePart : Obligations.RiseStartsThePart := by
  refine ⟨fun lines c hc => ?lines, fun pins s reset => ⟨fun low => ⟨fun bist => ?_, fun direct apart => ?_,
    fun direct equal => ?_⟩, fun high => ⟨_, exec_rstnRise_high pins reset high, ?shape, ?loanFault,
      fun n h4 h5 => ?others, fun bist => ?bist, fun direct => ⟨?sweep, fun apart => ?apart, fun equal => ?overlap⟩⟩⟩⟩
  case lines =>
    rw [get_risenChannels lines hc]
    exact ⟨rfl, Channel.risen_rxAwaitMark _⟩
  · rw [exec_rstnRise_low pins reset low, StartUp.ofStraps_bist bist, State.risen, low]
    rfl
  · rw [exec_rstnRise_low pins reset low, StartUp.ofStraps_apart direct apart, State.risen, low]
    rfl
  · rw [exec_rstnRise_low pins reset low, StartUp.ofStraps_overlap direct equal, State.risen, low]
    rfl
  case shape =>
    rw [State.risenGranted, State.risen, high]
    rfl
  case loanFault =>
    rw [State.risenGranted_classState, if_pos rfl, StartUp.ofStraps_faults _ (by decide), StartUp.ofStraps_location]
    rfl
  case others =>
    rw [State.risenGranted_classState, if_neg h4.symm, StartUp.ofStraps_faults _ h5]
    rfl
  case bist =>
    rw [StartUp.ofStraps_bist bist, State.risenGranted_classState]
    exact ⟨rfl, rfl, rfl⟩
  case sweep => exact StartUp.ofStraps_fetch direct
  case apart =>
    rw [StartUp.ofStraps_apart direct apart, State.risenGranted_classState]
    exact ⟨rfl, rfl⟩
  case overlap =>
    rw [StartUp.ofStraps_overlap direct equal, State.risenGranted_classState]
    exact ⟨rfl, rfl⟩

end Sys2Proof.Machine
end

section
/-! The end of the start-up (R57, R58, R59, R62): the HALT faults that it records, in order, and what each leaves of the
device state, the channels and the fault classes. -/

namespace Sys2Proof.Machine

/-! ### One HALT fault (R59, R77, R82) -/

@[simp] theorem State.recordHalt_device (s : State) (k : FaultKind) (l : Location) :
    (s.recordHalt k l).device = .halted := by
  rw [State.recordHalt]
  split
  case isTrue halted => exact halted
  case isFalse => rfl

@[simp] theorem State.recordHalt_tag (s : State) (k : FaultKind) (l : Location) : (s.recordHalt k l).tag = s.tag := by
  rw [State.tag, (s.recordHalt_only k l).frame (by decide), State.tag]

/-- The stop effects come with the entry to HALTED, so a later HALT fault makes none. -/
theorem State.chan_recordHalt (s : State) (k : FaultKind) (l : Location) {c : Nat} (hc : c < Config.channels) :
    (s.recordHalt k l).chan c = if s.device = .halted then s.chan c else (s.chan c).stopEffects := by
  rw [State.recordHalt, State.recordFault_device]
  split
  · rfl
  · rw [State.chan_mapChans, if_pos hc]
    rfl

theorem State.classState_recordHalt (s : State) (k : FaultKind) (l : Location) (n : Nat) :
    (s.recordHalt k l).classState n =
      if k.cls.number = n then
        (s.classState n).record { kind := k, origin := .selftest, location := l, tag := s.tag }
      else s.classState n := by
  rw [← State.classState_recordFault, State.recordHalt]
  split <;> rfl

/-! ### HALT faults one after another -/

/-- HALT faults recorded in order, each a kind with its location. -/
def State.recordHalts (s : State) (l : List (FaultKind × Location)) : State :=
  l.foldl (fun acc f => acc.recordHalt f.1 f.2) s

/-- A class that takes HALT faults in order, all under one frame tag. -/
def ClassState.recordHalts (tag : BitVec 16) (st : ClassState) (l : List (FaultKind × Location)) : ClassState :=
  l.foldl (fun acc f => acc.record { kind := f.1, origin := .selftest, location := f.2, tag }) st

theorem State.recordHalts_only (s : State) (l : List (FaultKind × Location)) :
    s.Only [.device, .faults, .chans] (s.recordHalts l) :=
  .foldl _ (fun s _ => s.recordHalt_only ..) l s

theorem State.recordHalts_device (s : State) (l : List (FaultKind × Location)) :
    (s.recordHalts l).device = if l = [] then s.device else .halted := by
  induction l generalizing s with
  | nil => rfl
  | cons f l ih =>
    have rest := ih (s.recordHalt f.1 f.2)
    rw [State.recordHalt_device, ite_self] at rest
    exact rest

theorem State.chan_recordHalts_halted {s : State} (halted : s.device = .halted) (l : List (FaultKind × Location)) {c : Nat}
    (hc : c < Config.channels) : (s.recordHalts l).chan c = s.chan c := by
  induction l generalizing s with
  | nil => rfl
  | cons f l ih =>
    calc (s.recordHalts (f :: l)).chan c
      _ = (s.recordHalt f.1 f.2).chan c := ih (s.recordHalt_device ..)
      _ = s.chan c := by rw [State.chan_recordHalt _ _ _ hc, if_pos halted]

/-- The first of the HALT faults stops the channels; the others find the part HALTED. -/
theorem State.chan_recordHalts {s : State} (running : s.device ≠ .halted) (l : List (FaultKind × Location)) {c : Nat}
    (hc : c < Config.channels) :
    (s.recordHalts l).chan c = if l = [] then s.chan c else (s.chan c).stopEffects := by
  cases l with
  | nil => rfl
  | cons f l =>
    calc (s.recordHalts (f :: l)).chan c
      _ = (s.recordHalt f.1 f.2).chan c := State.chan_recordHalts_halted (s.recordHalt_device ..) l hc
      _ = (s.chan c).stopEffects := by rw [State.chan_recordHalt _ _ _ hc, if_neg running]

theorem State.classState_recordHalts {s : State} {l : List (FaultKind × Location)} (halt : ∀ f ∈ l, f.1.cls = .halt)
    (n : Nat) :
    (s.recordHalts l).classState n = if n = 5 then (s.classState n).recordHalts s.tag l else s.classState n := by
  induction l generalizing s with
  | nil => exact (ite_self _).symm
  | cons f l ih =>
    obtain ⟨first, rest⟩ := List.forall_mem_cons.mp halt
    have number : f.1.cls.number = 5 := congrArg FaultClass.number first
    have later := ih (s := s.recordHalt f.1 f.2) rest
    rw [State.classState_recordHalt, number, State.recordHalt_tag] at later
    refine later.trans ?_
    by_cases hn : n = 5
    · subst hn
      rfl
    · rw [if_neg hn, if_neg hn, if_neg (Ne.symm hn)]

/-! ### The start-up checks (R57, R58) -/

/-- The HALT faults that the end of the start-up records, in order: 0x50 for a failed self-test, then 0x51 for overlapping
regions. -/
def startUpHalts (p : Straps) (pass : Bool) : List (FaultKind × Location) :=
  (if pass then [] else [(.selftestFailure, .absent)]) ++
    if p.xbase = p.nbase then [(.regionOverlap, .word (BitVec.ofNat 22 p.xpBase))] else []

theorem startUpHalts_cls (p : Straps) (pass : Bool) : ∀ f ∈ startUpHalts p pass, f.1.cls = .halt := by
  intro f hf
  obtain hf | hf := List.mem_append.mp hf
  · obtain ⟨-, rfl⟩ : pass = false ∧ f = (.selftestFailure, .absent) := by simpa using hf
    rfl
  · obtain ⟨-, rfl⟩ : p.xbase = p.nbase ∧ f = (.regionOverlap, .word (BitVec.ofNat 22 p.xpBase)) := by simpa using hf
    rfl

theorem startUpHalts_eq_nil (p : Straps) (pass : Bool) :
    startUpHalts p pass = [] ↔ pass = true ∧ p.xbase ≠ p.nbase := by
  simp [startUpHalts]

theorem State.endStartUp_eq (s : State) (pass : Bool) :
    s.endStartUp pass =
      (({ s with device := .operating } : State).recordHalts (startUpHalts s.straps pass)).restartSweep := by
  rw [State.endStartUp, startUpHalts]
  by_cases equal : s.straps.xbase = s.straps.nbase
  · have overlap : Straps.overlap s.straps = true := beq_iff_eq.mpr equal
    cases pass <;> simp only [overlap, if_pos equal] <;> rfl
  · have overlap : Straps.overlap s.straps = false := beq_eq_false_iff_ne.mpr equal
    cases pass <;> simp only [overlap, if_neg equal] <;> rfl

section

variable (s : State) (pass : Bool)

theorem State.endStartUp_device :
    (s.endStartUp pass).device = if startUpHalts s.straps pass = [] then .operating else .halted := by
  rw [State.endStartUp_eq, (State.restartSweep_only _).device (by decide), State.recordHalts_device]

theorem State.chan_endStartUp {c : Nat} (hc : c < Config.channels) :
    (s.endStartUp pass).chan c =
      if startUpHalts s.straps pass = [] then s.chan c else (s.chan c).stopEffects := by
  have running : ({ s with device := .operating } : State).device ≠ .halted := nofun
  rw [State.endStartUp_eq, (State.restartSweep_only _).chan (by decide), State.chan_recordHalts running _ hc]
  rfl

theorem State.classState_endStartUp (n : Nat) :
    (s.endStartUp pass).classState n =
      if n = 5 then (s.classState n).recordHalts s.tag (startUpHalts s.straps pass) else s.classState n := by
  rw [State.endStartUp_eq, (State.restartSweep_only _).classState (by decide),
    State.classState_recordHalts (startUpHalts_cls s.straps pass)]
  rfl

/-- The tracker is live from the end of the start-up on, HALTED or not, so the sweep starts (R62). -/
theorem State.endStartUp_fetch : (s.endStartUp pass).fetch = { s.fetch with sweep := firstSweep s.straps } := by
  rw [State.endStartUp_eq]
  generalize startUpHalts s.straps pass = l
  have frame := ({ s with device := .operating } : State).recordHalts_only l
  have live : (({ s with device := .operating } : State).recordHalts l).live = true := by
    rw [State.live, State.recordHalts_device]
    split <;> rfl
  rw [State.restartSweep, if_pos live, frame.straps (by decide), frame.fetch (by decide)]

end

/-- What the self-test's end leaves of the part, up to the start-up checks: the stores at their reset contents (R57). -/
def State.storesReset (s : State) : State :=
  { s with
    shadow := { crosspoints := [], names := [] }, gather := { s.gather with dirty := [], takeQueue := [] }, fanout := none }

theorem exec_selftestCompletion {s : State} (pass : Bool) (testing : s.device = .selftest) :
    exec (.selftestCompletion pass) s = .next (s.storesReset.endStartUp pass) :=
  congrArg Host.Outcome.next (if_pos testing)

/-- Settles O8. -/
theorem selftestEnds : Obligations.SelftestEnds := by
  intro pass s testing
  have frame := s.storesReset.endStartUp_only pass
  have device := s.storesReset.endStartUp_device pass
  have chan : ∀ c, c < 16 → (s.storesReset.endStartUp pass).chan c =
      if startUpHalts s.straps pass = [] then s.chan c else (s.chan c).stopEffects := fun c hc =>
    s.storesReset.chan_endStartUp pass hc
  have halt : ∀ {l}, startUpHalts s.straps pass = l →
      (s.storesReset.endStartUp pass).classState 5 = (s.classState 5).recordHalts s.tag l := fun recorded =>
    recorded ▸ s.storesReset.classState_endStartUp pass 5
  refine ⟨_, exec_selftestCompletion pass testing, frame.shadow (by decide), frame.gather (by decide),
    frame.fanout (by decide), s.storesReset.endStartUp_fetch pass, fun passed apart => ?passes, fun fails => ?halts,
    fun failed apart => ?failure, fun passed equal => ?overlap, fun failed equal => ?both, fun n hn => ?others, ?only⟩
  case passes =>
    have nothing : startUpHalts s.straps pass = [] := (startUpHalts_eq_nil s.straps pass).mpr ⟨passed, apart⟩
    exact ⟨device.trans (if_pos nothing), halt nothing, fun c hc => (chan c hc).trans (if_pos nothing)⟩
  case halts =>
    have something : startUpHalts s.straps pass ≠ [] := fun nothing => by
      obtain ⟨passed, apart⟩ := (startUpHalts_eq_nil s.straps pass).mp nothing
      exact fails.elim (fun failed => by cases passed.symm.trans failed) apart
    exact ⟨device.trans (if_neg something), fun c hc => (chan c hc).trans (if_neg something)⟩
  case failure =>
    have one : startUpHalts s.straps pass = [(.selftestFailure, .absent)] := by
      simp [startUpHalts, failed, apart]
    exact halt one
  case overlap =>
    have one : startUpHalts s.straps pass = [(.regionOverlap, .word (BitVec.ofNat 22 s.straps.xpBase))] := by
      simp [startUpHalts, passed, equal]
    exact halt one
  case both =>
    have two : startUpHalts s.straps pass =
        [(.selftestFailure, .absent), (.regionOverlap, .word (BitVec.ofNat 22 s.straps.xpBase))] := by
      simp [startUpHalts, failed, equal]
    exact halt two
  case others => exact (s.storesReset.classState_endStartUp pass n).trans (if_neg hn)
  case only => exact ((s.emptyStores_only ..).mono (by decide)).trans (frame.mono (by decide))

end Sys2Proof.Machine
end

section
/-! The fault classes (R75, R77, R80, R81): one fault recorded in its class, CLEAR EVENTS, and what every command and every
step keeps of the classes. -/

namespace Sys2Proof.Machine

/-! ### Faults recorded and nothing else -/

/-- What is made by the tables' own updates alone does nothing to the fault classes but record faults in them. -/
theorem State.Moves.recorded {fs : List Field} {s t : State} (h : s.Moves fs t) (hf : Field.faults ∉ fs) :
    s.Recorded t := by
  induction h with
  | off h => exact h.recorded hf
  | chan s c ch => exact (s.setChan_only c ch).recorded (by decide)
  | chans s f => exact (s.mapChans_only f).recorded (by decide)
  | fault s k o l => exact s.recordFault_recorded k o l
  | word s a f g => exact (s.actOnWord_only a f g).recorded (by decide)
  | downgrade s => exact (s.setShadow_only _).recorded (by decide)
  | trans _ _ ih ih' => exact ih.trans ih'

/-- The commands that clear fault classes are CLEAR EVENTS, SOFT RESET and the two edges of RSTN (R80, R81); any other only
records faults. -/
theorem exec_recorded {c : Instr} {s t : State} (hx : exec c s = .next t) (clear : ∀ mask, c ≠ .clearEvents mask)
    (soft : c ≠ .softReset) (fall : c ≠ .rstnFall) (rise : ∀ pins, c ≠ .rstnRise pins) : s.Recorded t := by
  have moves := exec_moves hx
  cases c
  case clearEvents mask => exact absurd rfl (clear mask)
  case softReset => exact absurd rfl soft
  case rstnFall => exact absurd rfl fall
  case rstnRise pins => exact absurd rfl (rise pins)
  all_goals exact moves.recorded (by simp [Instr.free])

/-! ### Classes cleared (R80, R81) -/

theorem State.classState_of_empty {s : State} (h : s.faults = []) (n : Nat) : s.classState n = ClassState.clear := by
  rw [State.classState, h]
  rfl

theorem State.classState_softReset (s : State) (n : Nat) : s.softReset.classState n = ClassState.clear :=
  State.classState_of_empty ((State.restartSweep_only _).faults (by decide)) n

theorem State.classState_clearMasked (s : State) (mask : Byte) {n : Nat} (hn : n < 6) :
    (s.clearMasked mask).classState n = if mask.getLsbD n = true then ClassState.clear else s.classState n := by
  rw [State.classState, State.clearMasked, Table.get_tabulate, if_pos hn]

/-! ### The three items of a class (R75) -/

theorem State.Recorded.faultsConsistent {s t : State} (h : s.Recorded t) (k : s.FaultsConsistent) :
    t.FaultsConsistent :=
  fun n hn => h.keep ClassState.Consistent (fun st c _ => st.record_consistent c) n (k n hn)

theorem State.faultsConsistent_of_clear {s : State} (h : ∀ n, s.classState n = ClassState.clear) : s.FaultsConsistent :=
  fun n _ => (h n).symm ▸ ClassState.clear_consistent

theorem State.clearMasked_faultsConsistent {s : State} (mask : Byte) (k : s.FaultsConsistent) :
    (s.clearMasked mask).FaultsConsistent := by
  intro n hn
  rw [State.classState_clearMasked s mask hn]
  split
  · exact ClassState.clear_consistent
  · exact k n hn

theorem exec_faultsConsistent {c : Instr} {s t : State} (hx : exec c s = .next t) (k : s.FaultsConsistent) :
    t.FaultsConsistent := by
  have recorded := exec_recorded hx
  cases c
  case rstnFall =>
    injection hx with hx
    exact hx ▸ keeps_guarded _ (State.faultsConsistent_of_clear (State.classState_of_empty rfl)) k
  case rstnRise pins =>
    have sampled : (s.sampled pins).FaultsConsistent := State.faultsConsistent_of_clear (State.classState_of_empty rfl)
    have risen : (s.riseWith pins).FaultsConsistent :=
      ((s.riseWith_moves pins).recorded (by decide)).faultsConsistent sampled
    injection hx with hx
    exact hx ▸ keeps_guarded _ k risen
  case clearEvents mask =>
    injection hx with hx
    exact hx ▸ keeps_guarded _
      (State.runCommand_keeps (fun _ _ h => h) _ _ (State.clearMasked_faultsConsistent mask k) k) k
  case softReset =>
    injection hx with hx
    exact hx ▸ keeps_guarded _
      (State.runCommand_keeps (fun _ _ h => h) _ _ (State.faultsConsistent_of_clear s.classState_softReset) k) k
  all_goals exact (recorded nofun nofun nofun nofun).faultsConsistent k

/-- Settles O54: a taking of what stands presented records faults only, and the passing of time does nothing to a class. -/
theorem faultClassesStayConsistent : Obligations.FaultClassesStayConsistent := by
  intro s t k hs
  exact step_keeps (P := State.FaultsConsistent) (fun _ _ _ hx => exec_faultsConsistent hx)
    (fun u p => (u.takePresented_recorded p).faultsConsistent)
    (fun _ _ h => (h.recorded (by decide)).faultsConsistent) hs k

/-! ### A captured fault stands (R77, R80) -/

/-- The class holds the capture record `x`, pending, with a counter of `m` or more. -/
structure ClassState.Holds (x : Capture) (m : Nat) (st : ClassState) : Prop where
  capture : st.capture = some x
  pending : st.pending = true
  count : m ≤ st.count

/-- A capture record that is present keeps its place, and the counter rises or stays at its limit. -/
theorem ClassState.Holds.record {x : Capture} {m : Nat} {st : ClassState} (h : st.Holds x m) (limit : m ≤ Config.countMax)
    (c : Capture) : (st.record c).Holds x m where
  capture := by simp [ClassState.record, h.capture]
  pending := rfl
  count := le_min (Nat.le_succ_of_le h.count) limit

/-- CLEAR EVENTS leaves a class whose mask bit is clear, whatever the transaction stands at. -/
theorem exec_clearEvents_kept {mask : Byte} {s t : State} (hx : exec (.clearEvents mask) s = .next t) {n : Nat}
    (hn : n < 6) (kept : mask.getLsbD n = false) : t.classState n = s.classState n := by
  have cleared : (s.clearMasked mask).classState n = s.classState n := by
    rw [State.classState_clearMasked s mask hn, if_neg (by simp [kept])]
  injection hx with hx
  exact hx ▸ keeps_guarded (P := fun u => u.classState n = s.classState n) _
    (State.runCommand_keeps (P := fun u => u.classState n = s.classState n) (fun _ _ h => h) _ _ cleared rfl) rfl

/-- Settles O55: CLEAR EVENTS leaves the class, and every other command of those named only records faults. -/
theorem faultsStandUntilCleared : Obligations.FaultsStandUntilCleared := by
  intro c s t n x hn hx consistent captured unmasked soft fall rise
  obtain ⟨present, -, limit⟩ := consistent n hn
  have before : (s.classState n).Holds x (s.classState n).count := ⟨captured, present.mpr (by simp [captured]), le_rfl⟩
  have after : (t.classState n).Holds x (s.classState n).count := by
    by_cases clear : ∃ mask, c = .clearEvents mask
    · obtain ⟨mask, rfl⟩ := clear
      rwa [exec_clearEvents_kept hx hn (unmasked mask rfl)]
    · have recorded := exec_recorded hx (not_exists.mp clear) soft fall rise
      exact recorded.keep _ (fun _ y h => h.record limit y) n before
  exact ⟨after.capture, after.pending, after.count⟩

/-! ### One fault recorded (R77) -/

/-- The class of a kind is the high digit of its code (R76). -/
theorem FaultKind.number_eq (k : FaultKind) : k.cls.number = k.code.toNat / 16 := by
  cases k <;> rfl

theorem State.classState_recordFault_own (s : State) (k : FaultKind) (o : Origin) (l : Location) :
    (s.recordFault k o l).classState k.cls.number =
      (s.classState k.cls.number).record { kind := k, origin := o, location := l, tag := s.tag } := by
  rw [State.classState_recordFault, if_pos rfl]

theorem State.classState_recordFault_other (s : State) {k : FaultKind} (o : Origin) (l : Location) {n : Nat}
    (h : n ≠ k.cls.number) : (s.recordFault k o l).classState n = s.classState n := by
  rw [State.classState_recordFault, if_neg h.symm]

theorem State.recordHalt_faults (s : State) (k : FaultKind) (l : Location) :
    (s.recordHalt k l).faults = (s.recordFault k .selftest l).faults := by
  rw [State.recordHalt]
  split <;> rfl

/-- Settles O26: with RSTN low a command changes at most the level of LOANREQ, which is no fault class's. -/
theorem faultRecordInItsClass : Obligations.FaultRecordInItsClass := by
  refine ⟨fun s k o l => ⟨fun n hn => ?own, fun n hn => s.classState_recordFault_other o l hn, s.recordFault_only k o l⟩,
    FaultKind.number_eq, fun s k l => ?halt, fun c s t reset rise hx => ?down⟩
  case own =>
    subst hn
    rw [State.classState_recordFault_own]
    exact ⟨rfl, fun absent => by simp [ClassState.record, absent, State.tag],
      fun c present => by simp [ClassState.record, present], rfl⟩
  case halt =>
    refine ⟨s.recordHalt_device k l, s.recordHalt_faults k l, fun running c hc => ?_, s.recordHalt_only k l⟩
    rw [State.chan_recordHalt s k l hc, if_neg running]
  case down =>
    obtain ⟨level, loanOnly, -⟩ := heldInResetNothingActs c s reset rise
    injection hx.symm.trans loanOnly with same
    rw [same]

/-! ### A command awaited (R169) -/

/-- The command that a transaction awaits executes at its last byte, and its reply stands to be shifted out (R169). -/
theorem State.command_awaits {s : State} {l : List Byte} (h : s.Awaits l) (run : State → State × List Byte) :
    (if s.up then s.runCommand l run else s) = State.replied (run s).1 l (run s).2 := by
  rw [if_pos h.1, State.runCommand_awaits h]

@[simp] theorem State.classState_replied (s : State) (received reply : List Byte) (n : Nat) :
    (s.replied received reply).classState n = s.classState n := rfl

/-! ### CLEAR EVENTS awaited (R80, R175) -/

theorem FaultClass.number_lt (c : FaultClass) : c.number < 6 := by
  cases c <;> decide

/-- Settles O44. -/
theorem clearEventsClearsMaskedClasses : Obligations.ClearEventsClearsMaskedClasses := by
  intro mask s awaits
  have cleared : ∀ n, n < 6 → mask.getLsbD n = true → (s.clearMasked mask).classState n = ClassState.clear :=
    fun n hn set => by rw [State.classState_clearMasked s mask hn, if_pos set]
  refine ⟨(s.clearMasked mask).replied [0x04, mask] [0x00], ?command, fun n hn set => ?masked, fun n hn unset => ?kept,
    rfl, fun k o l set => ?fresh, (s.clearMasked_only mask).trans ((State.setMgmt_only _ _).mono (by decide))⟩
  case command => exact congrArg Host.Outcome.next (State.command_awaits awaits _)
  case masked =>
    rw [State.classState_replied, cleared n hn set]
    exact ⟨rfl, rfl, rfl⟩
  case kept => rw [State.classState_replied, State.classState_clearMasked s mask hn, if_neg (by simp [unset])]
  case fresh =>
    rw [State.classState_recordFault_own, State.classState_replied, cleared _ k.cls.number_lt set]
    rfl

end Sys2Proof.Machine
end

section
/-! The check code (R70, R72, R73, R74): a received word is a word with its generated check bits and an error on it, and the
decode of it depends on the word only where it passes the data on, since syndrome and overall parity are linear. -/

namespace Sys2Proof

/-! ### Words with an error on them -/

/-- The error that inverts bit n of the 39: its data part and its check part. -/
def flipError (n : Nat) : BitVec 32 × BitVec 7 := Machine.flipBit (0, 0) n

/-- The position that bit n of the 39 has in the code: that of its data bit, 2^k for check bit ck, and 0 for c6, which no
position's number names (R70). -/
def bitPosition (n : Nat) : Nat :=
  if n < 32 then dataPosition n else if n < 38 then 2 ^ (n - 32) else 0

theorem flipBit_eq (word : BitVec 32 × BitVec 7) (n : Nat) :
    Machine.flipBit word n = (word.1 ^^^ (flipError n).1, word.2 ^^^ (flipError n).2) := by
  unfold flipError Machine.flipBit
  split <;> simp

/-- The syndrome of an error on a word with its generated check bits is the error's own (R72). -/
theorem syndrome_error (data x : BitVec 32) (c : BitVec 7) :
    syndrome (data ^^^ x) (encodeCheck data ^^^ c) = syndrome x c := by
  rw [syndrome_xor, (encodeCheck_spec data).1, Nat.zero_xor]

theorem overallOdd_error (data x : BitVec 32) (c : BitVec 7) :
    overallOdd (data ^^^ x) (encodeCheck data ^^^ c) = overallOdd x c := by
  rw [overallOdd_xor, (encodeCheck_spec data).2, Bool.false_xor]

/-! ### The 39 single errors -/

/-- A single error is odd, and its syndrome is the position of its bit (R70, R72). -/
theorem flipError_shows : ∀ n, n < 39 →
    overallOdd (flipError n).1 (flipError n).2 = true ∧ syndrome (flipError n).1 (flipError n).2 = bitPosition n := by
  decide +kernel

theorem bitPosition_le : ∀ n, n < 39 → bitPosition n ≤ 38 := by decide

/-- No two of the 39 bits have one position, which is what makes double errors show (R70). -/
theorem bitPosition_inj {n m : Nat} (hn : n < 39) (hm : m < 39) (h : bitPosition n = bitPosition m) : n = m := by
  have distinct : ((List.range 39).map bitPosition).Nodup := by decide
  exact List.inj_on_of_nodup_map distinct (List.mem_range.mpr hn) (List.mem_range.mpr hm) h

/-- The data bit found at a position is the one that an error there inverts; at a check bit's position none is found. -/
theorem find_bitPosition : ∀ n, n < 39 →
    ((List.range 32).find? fun i => dataPosition i == bitPosition n) = if n < 32 then some n else none := by decide

/-- The correction takes a single error off the data again (R73). -/
theorem invertAt_flipError (data : BitVec 32) {n : Nat} (hn : n < 39) :
    invertAt (data ^^^ (flipError n).1) (bitPosition n) = data := by
  rw [invertAt, find_bitPosition n hn, flipError, Machine.flipBit]
  by_cases isData : n < 32
  · simp [isData]
  · simp [isData]

/-! ### The decode (R72, R73) -/

theorem eccDecode_clean {data : BitVec 32} {check : BitVec 7} (even : overallOdd data check = false)
    (zero : syndrome data check = 0) : eccDecode data check = { outcome := .clean, data, check } := by
  simp [eccDecode, even, zero]

theorem eccDecode_odd {data : BitVec 32} {check : BitVec 7} (odd : overallOdd data check = true)
    (named : syndrome data check ≤ 38) :
    eccDecode data check =
      { outcome := .corrected
        data := invertAt data (syndrome data check)
        check := encodeCheck (invertAt data (syndrome data check)) } := by
  simp [eccDecode, odd, named]

/-- An even error that shows a syndrome is detected and not corrected. -/
theorem eccDecode_even (data : BitVec 32) {x : BitVec 32} {c : BitVec 7} (even : overallOdd x c = false)
    (shows : syndrome x c ≠ 0) : (eccDecode (data ^^^ x) (encodeCheck data ^^^ c)).outcome = .uncorrectable := by
  simp [eccDecode, overallOdd_error, syndrome_error, even, shows]

theorem eccDecode_single (data : BitVec 32) {n : Nat} (hn : n < 39) :
    eccDecode (data ^^^ (flipError n).1) (encodeCheck data ^^^ (flipError n).2) =
      { outcome := .corrected, data := data, check := encodeCheck data } := by
  obtain ⟨odd, position⟩ := flipError_shows n hn
  have named := (syndrome_error data (flipError n).1 (flipError n).2).trans position
  rw [eccDecode_odd ((overallOdd_error ..).trans odd) (named ▸ bitPosition_le n hn), named, invertAt_flipError data hn]

/-- Two errors are even together, and their syndrome is not 0, since their positions differ. -/
theorem flipError_pair_shows {n m : Nat} (hn : n < 39) (hm : m < 39) (h : n ≠ m) :
    overallOdd ((flipError n).1 ^^^ (flipError m).1) ((flipError n).2 ^^^ (flipError m).2) = false ∧
      syndrome ((flipError n).1 ^^^ (flipError m).1) ((flipError n).2 ^^^ (flipError m).2) ≠ 0 := by
  obtain ⟨oddN, positionN⟩ := flipError_shows n hn
  obtain ⟨oddM, positionM⟩ := flipError_shows m hm
  rw [overallOdd_xor, syndrome_xor, oddN, oddM, positionN, positionM]
  exact ⟨rfl, fun zero => h (bitPosition_inj hn hm (Nat.xor_eq_zero_iff.mp zero))⟩

theorem eccDecode_double (data : BitVec 32) {n m : Nat} (hn : n < 39) (hm : m < 39) (h : n ≠ m) :
    (eccDecode (Machine.flipBit (Machine.flipBit (data, encodeCheck data) n) m).1
      (Machine.flipBit (Machine.flipBit (data, encodeCheck data) n) m).2).outcome = .uncorrectable := by
  obtain ⟨even, shows⟩ := flipError_pair_shows hn hm h
  rw [flipBit_eq, flipBit_eq, BitVec.xor_assoc, BitVec.xor_assoc, eccDecode_even data even shows]

/-- The poison pattern is the double error in c0 and c1 (R74). -/
theorem flipBit_c0_c1 (data : BitVec 32) :
    Machine.flipBit (Machine.flipBit (data, encodeCheck data) 32) 33 = (data, poisonCheck data) := by
  have mask : BitVec.twoPow 7 0 ^^^ BitVec.twoPow 7 1 = 0x03#7 := by decide
  simp [Machine.flipBit, poisonCheck, BitVec.xor_assoc, mask]

/-- Settles O53. -/
theorem checkCodeCorrectsAndDetects : Obligations.CheckCodeCorrectsAndDetects := by
  intro data
  obtain ⟨zero, even⟩ := encodeCheck_spec data
  refine ⟨by rw [eccDecode_clean even zero], fun n hn => ?single, fun n m hn hm h => eccDecode_double data hn hm h, ?poison⟩
  case single => rw [flipBit_eq, eccDecode_single data hn]
  case poison =>
    have double := eccDecode_double data (n := 32) (m := 33) (by decide) (by decide) (by decide)
    rwa [flipBit_c0_c1] at double

end Sys2Proof
end

section
/-! The read commands (R83, R170 to R174): the counts of the shadow's entries by quality, the data of each read byte by byte, its
reply when awaited, and a command that the bytes held do not begin. -/

namespace Sys2Proof

/-! ### Entries of a table in canonical form -/

/-- A table in canonical form lists a key with a value exactly where it holds that value and the value is not the default. -/
theorem Table.mem_iff {α : Type} {d : α} {t : Table α} (h : Table.wf d t) (k : Nat) (v : α) :
    (k, v) ∈ t ↔ Table.get d t k = v ∧ v ≠ d := by
  induction t with
  | nil => simpa using fun e => e.symm
  | cons p t ih =>
    obtain ⟨j, w⟩ := p
    obtain ⟨rising, listed⟩ := h
    obtain ⟨first, rest⟩ := List.pairwise_cons.mp rising
    have tail := ih ⟨rest, fun q hq => listed q (List.mem_cons_of_mem _ hq)⟩
    rw [Table.get_cons, List.mem_cons]
    by_cases hk : j = k
    · subst hk
      have absent : (j, v) ∉ t := fun m => Nat.lt_irrefl j (first (j, v) m)
      have stored : w ≠ d := listed (j, w) List.mem_cons_self
      simp only [absent, or_false, if_true, Prod.mk.injEq, true_and]
      exact ⟨fun e => ⟨e.symm, e ▸ stored⟩, fun e => e.1.symm⟩
    · simp [hk, Ne.symm hk, tail]

/-- A table whose keys lie below n lists as many values that pass a test as there are keys below n that hold one, where the
default fails the test. -/
theorem Table.length_filter {α : Type} {d : α} {t : Table α} (h : Table.wf d t) {n : Nat}
    (above : ∀ k, n ≤ k → Table.get d t k = d) {test : α → Bool} (default : test d = false) :
    (t.filter fun p => test p.2).length = ((List.range n).filter fun k => test (Table.get d t k)).length := by
  have rising : ((t.filter fun p => test p.2).map Prod.fst).Nodup :=
    (List.pairwise_map.mpr ((h.1.filter _).imp Nat.ne_of_lt))
  have keys : ∀ k, k ∈ (t.filter fun p => test p.2).map Prod.fst ↔
      k ∈ (List.range n).filter fun k => test (Table.get d t k) := by
    intro k
    have stored : test (Table.get d t k) = true → Table.get d t k ≠ d := fun passes e => by simp [e, default] at passes
    have below : Table.get d t k ≠ d → k < n := fun listed => Nat.lt_of_not_le fun le => listed (above k le)
    simp only [List.mem_map, List.mem_filter, Prod.exists, exists_and_right, exists_eq_right, Table.mem_iff h,
      List.mem_range]
    constructor
    · rintro ⟨v, ⟨rfl, listed⟩, passes⟩
      exact ⟨below listed, passes⟩
    · rintro ⟨-, passes⟩
      exact ⟨_, ⟨rfl, stored passes⟩, passes⟩
  rw [← List.length_map (f := Prod.fst)]
  exact ((List.perm_ext_iff_of_nodup rising (List.nodup_range.filter _)).mpr keys).length_eq

end Sys2Proof

namespace Sys2Proof

/-! ### A code that is not in the table (R170) -/

theorem commandOf_unknown (byteOnLine : Option Bool) {code : Byte} (h : argumentBytes code = none) :
    commandOf byteOnLine [code] = some (.unknownCommand code) := by
  unfold commandOf
  dsimp only
  split
  case h_16 => exact if_pos h
  all_goals simp_all [argumentBytes]

end Sys2Proof

namespace Sys2Proof.Machine

/-! ### The entries in each quality (R6, R172) -/

section Qualities

variable {α : Type} (q : Quality α)

theorem Quality.isUnverified_eq : q.isUnverified = decide (q.kind = .unverified ()) := by cases q <;> rfl

theorem Quality.isVerified_eq : q.isVerified = decide (q.kind = .verified ()) := by cases q <;> rfl

theorem Quality.isSuspect_eq : q.isSuspect = decide (q.kind = .suspect) := by cases q <;> rfl

end Qualities

/-- How many of the words below an offset have an entry of a quality. -/
def kindCount {α : Type} (quality : Nat → Quality α) (len : Nat) (q : Quality Unit) : Nat :=
  ((List.range len).filter fun o => (quality o).kind = q).length

theorem kindCount_succ {α : Type} (quality : Nat → Quality α) (len : Nat) (q : Quality Unit) :
    kindCount quality (len + 1) q = kindCount quality len q + if (quality len).kind = q then 1 else 0 := by
  rw [kindCount, List.range_succ, List.filter_append, List.length_append, kindCount, List.filter_singleton]
  split <;> simp_all

/-- Each word's entry has one of the four qualities. -/
theorem kindCount_total {α : Type} (quality : Nat → Quality α) (len : Nat) :
    kindCount quality len .unknown + kindCount quality len (.unverified ()) + kindCount quality len (.verified ()) +
      kindCount quality len .suspect = len := by
  induction len with
  | zero => rfl
  | succ len ih =>
    simp only [kindCount_succ]
    cases (quality len).kind <;> simp <;> omega

/-- The two regions' stores list the entries of a quality that the words of the regions have, UNKNOWN aside. -/
theorem State.countQuality_eq (s : State) (canonical : s.Canonical) (regions : s.ShadowInRegions) {q : Quality Unit}
    (listed : q ≠ .unknown) {onRoute : Quality Route → Bool} {onName : Quality (BitVec 32) → Bool}
    (route : ∀ x, onRoute x = decide (x.kind = q)) (name : ∀ x, onName x = decide (x.kind = q)) :
    s.countQuality onRoute onName =
      kindCount s.crosspointQuality (Straps.xpLen s.straps) q + kindCount s.nameQuality (Straps.nameLen s.straps) q := by
  obtain ⟨crosspoints, names, -⟩ := canonical
  obtain ⟨aboveCrosspoints, aboveNames⟩ := regions
  have defaults : onRoute .unknown = false ∧ onName .unknown = false := by
    rw [route, name]
    exact ⟨decide_eq_false listed.symm, decide_eq_false listed.symm⟩
  rw [State.countQuality, Table.length_filter crosspoints aboveCrosspoints defaults.1,
    Table.length_filter names aboveNames defaults.2]
  simp only [route, name]
  rfl

/-! ### Bytes of a reply -/

theorem flagByte_eq {b : Bool} {P : Prop} [Decidable P] (h : b = true ↔ P) : flagByte b = if P then 1 else 0 := by
  simp only [flagByte, h]

theorem Channel.queued_iff (ch : Channel) (t : Nat) : ch.queued t = true ↔ ∃ n ∈ ch.queue, n.tile = t := by
  simp [Channel.queued]

/-! ### Numbers of states (R172, R173) -/

theorem Device.number_eq {d : Device} {b : Byte} (up : d ≠ .inReset) (selftest : d = .selftest → b = 1)
    (operating : d = .operating → b = 2) (halted : d = .halted → b = 3) : d.number = b := by
  cases d with
  | inReset => exact absurd rfl up
  | selftest => exact (selftest rfl).symm
  | operating => exact (operating rfl).symm
  | halted => exact (halted rfl).symm

theorem RefState.number_eq {r : RefState} {b : Byte} (absent : r = .absent → b = 0) (locked : r = .locked → b = 1)
    (flywheel : r = .flywheel → b = 2) : r.number = b := by
  cases r with
  | absent => exact (absent rfl).symm
  | locked => exact (locked rfl).symm
  | flywheel => exact (flywheel rfl).symm

theorem Loan.number_eq {l : Loan} {b : Byte} (none : l = .none → b = 0) (requested : l = .requested → b = 1)
    (granted : l = .granted → b = 2) : l.number = b := by
  cases l with
  | none => exact (none rfl).symm
  | requested => exact (requested rfl).symm
  | granted => exact (granted rfl).symm

theorem Sweep.number_location {w : Sweep} {b : Byte} {position : List Byte}
    (idle : w = .idle → b = 0 ∧ position = [0xFF, 0xFF, 0xFF])
    (ending : w = .ending → b = 2 ∧ position = [0xFF, 0xFF, 0xFF])
    (running : ∀ region a, w = .running region a → b = 1 ∧ position = bytes3 (a.setWidth 24)) :
    w.number = b ∧ w.location.bytes = position := by
  cases w with
  | idle =>
    obtain ⟨rfl, rfl⟩ := idle rfl
    exact ⟨rfl, rfl⟩
  | ending =>
    obtain ⟨rfl, rfl⟩ := ending rfl
    exact ⟨rfl, rfl⟩
  | running region a =>
    obtain ⟨rfl, rfl⟩ := running region a rfl
    exact ⟨rfl, rfl⟩

theorem ChannelState.number_eq {c : ChannelState} {b : Byte} (stopped : c = .stopped → b = 0)
    (listening : c = .listening → b = 1) (starting : c = .starting → b = 2) (running : c = .running → b = 3)
    (lost : c = .lost → b = 4) : c.number = b := by
  cases c with
  | stopped => exact (stopped rfl).symm
  | listening => exact (listening rfl).symm
  | starting => exact (starting rfl).symm
  | running => exact (running rfl).symm
  | lost => exact (lost rfl).symm

/-! ### The data of the reads (R172, R173) -/

/-- READ STATUS's data, its counts taken over the words of the two regions. -/
theorem State.statusData_counts {s : State} (canonical : s.Canonical) (regions : s.ShadowInRegions)
    {count : Quality Unit → Nat}
    (h : ∀ q, count q = kindCount s.crosspointQuality (Straps.xpLen s.straps) q +
      kindCount s.nameQuality (Straps.nameLen s.straps) q) :
    s.statusData =
      [s.device.number, s.frame.state.number] ++ bytes4 s.frame.count ++ bytes2Of s.frame.noise ++
        [s.loan.number, s.fetch.sweep.number] ++ s.fetch.sweep.location.bytes ++ bytes2Of (count .unknown) ++
        bytes2Of (count (.unverified ())) ++ bytes2Of (count (.verified ())) ++ bytes2Of (count .suspect) ++
        [byteOf s.fetch.reread.length, byteOf s.gather.takeQueue.length] ++ bytes2Of s.gather.dirty.length ++
        bytes2Of s.gather.late ++ bytes2Of s.gather.bounced ++
        [byteOf s.portA.queue.length, byteOf s.portB.queue.length, s.eventBits] := by
  have unverified := s.countQuality_eq canonical regions (q := .unverified ()) nofun Quality.isUnverified_eq
    Quality.isUnverified_eq
  have verified := s.countQuality_eq canonical regions (q := .verified ()) nofun Quality.isVerified_eq
    Quality.isVerified_eq
  have suspect := s.countQuality_eq canonical regions (q := .suspect) nofun Quality.isSuspect_eq Quality.isSuspect_eq
  have unknown : Straps.xpLen s.straps + Straps.nameLen s.straps -
      (count (.unverified ()) + count (.verified ()) + count .suspect) = count .unknown := by
    have crosspoints := kindCount_total s.crosspointQuality (Straps.xpLen s.straps)
    have names := kindCount_total s.nameQuality (Straps.nameLen s.straps)
    simp only [h]
    omega
  rw [← h] at unverified verified suspect
  simp only [State.statusData, unverified, verified, suspect, unknown]

/-- A tile state's kind, source and protect, given by what they are for each state. -/
theorem TileState.fields_eq {fields : TileState → List Byte} (unassigned : fields .unassigned = [0, 0, 0, 0])
    (unknown : fields .unknown = [2, 0, 0, 0])
    (known : ∀ r, fields (.known r) = [1] ++ bytes2 (r.source.setWidth 16) ++ [if r.protect then 1 else 0])
    (x : TileState) : x.fields = fields x := by
  cases x with
  | unassigned => exact unassigned.symm
  | unknown => exact unknown.symm
  | known r => exact (known r).symm

theorem Channel.tileData_eq (ch : Channel) (t : Nat) {slot : List Byte}
    (free : (ch.tile t).assignment = none → slot = [0, 0, 0, 0])
    (assigned : ∀ e, (ch.tile t).assignment = some e → slot = [1, byteOf e.level] ++ bytes2Of e.dest) :
    ch.tileData t =
      slot ++ (ch.tile t).current.fields ++ bytes4 (ch.tile t).take ++ (ch.tile t).lastSent.fields ++
      [if ∃ n ∈ ch.queue, n.tile = t then 1 else 0, if ∃ n ∈ ch.queue, n.tile = t ∧ n.label = true then 1 else 0] := by
  rw [Channel.tileData, flagByte_eq (ch.queued_iff t), flagByte_eq (P := ∃ n ∈ ch.queue, n.tile = t ∧ n.label = true)
    (by simp)]
  cases slotted : (ch.tile t).assignment with
  | none => rw [free slotted]
  | some e => rw [assigned e slotted]

theorem statusRecordData_eq {last : Option StatusRecord} {data : List Byte}
    (absent : last = none → data = [0, 0, 0, 0, 0, 0, 0])
    (present : ∀ r, last = some r →
      data = [1] ++ bytes2 r.tag ++ bytes2 r.digest ++ [if r.hold then 1 else 0, r.capacity]) :
    statusRecordData last = data := by
  cases last with
  | none => exact (absent rfl).symm
  | some r => exact (present r rfl).symm

theorem Channel.channelData_eq (ch : Channel) {state cursor : Byte} {last : List Byte} (number : ch.state.number = state)
    (noCursor : ch.cursor = none → cursor = 0xFF) (atCursor : ∀ k, ch.cursor = some k → cursor = byteOf k)
    (record : statusRecordData ch.lastStatus = last) :
    ch.channelData =
      [state, byteOf ch.queue.length, byteOf ch.slots, cursor, flagByte ch.forced, BitVec.ofInt 8 ch.debt] ++
        bytes2Of ch.ticks ++ bytes2Of ch.digest ++
        [byteOf ch.mismatch, byteOf ch.helloCount,
          0#5 ++ BitVec.ofBool ch.hold ++ BitVec.ofBool ch.heard ++ BitVec.ofBool ch.helloPending, byteOf ch.missing,
          byteOf ch.heldFrames] ++ last ++
        bytes2Of ch.statusCount ++ bytes2Of ch.returnErrors ++ bytes2Of ch.frameCount ++ bytes2Of ch.changeCount ++
        bytes2Of ch.superseded ++ bytes2Of ch.droppedEqual ++ bytes2Of ch.refreshNotices ++ bytes2Of ch.refreshes ++
        bytes2Of ch.staleCount := by
  rw [Channel.channelData, number, record]
  cases position : ch.cursor with
  | none => rw [noCursor position]
  | some k => rw [atCursor k position]

/-! ### Replies that change nothing else (R169) -/

/-- A command that gives the state back with an answer leaves the part as it was, the answer standing to be shifted out. -/
theorem State.read_awaits {s : State} {l reply : List Byte} {run : State → State × List Byte} (h : s.Awaits l)
    (answer : run s = (s, reply)) : (if s.up then s.runCommand l run else s) = s.replied l reply := by
  rw [State.command_awaits h, answer]

section Replies

variable {s : State}

theorem exec_identify_awaits (h : s.Awaits [0x01]) :
    exec .identify s = .next (s.replied [0x01] (statusDone :: identifyData s.straps)) :=
  congrArg Host.Outcome.next (State.read_awaits h rfl)

theorem exec_readStatus_awaits (h : s.Awaits [0x02]) :
    exec .readStatus s = .next (s.replied [0x02] (statusDone :: s.statusData)) :=
  congrArg Host.Outcome.next (State.read_awaits h rfl)

theorem exec_readFault_awaits {cls : Byte} (h : s.Awaits [0x03, cls]) :
    exec (.readFault cls) s = .next (s.replied [0x03, cls]
      (if 5 < cls.toNat then [statusRange] else statusDone :: (s.classState cls.toNat).faultData)) :=
  congrArg Host.Outcome.next (State.read_awaits h (by split <;> rfl))

theorem State.runGetParam_none {number : Byte} (chan : Byte) (none : paramOf number = none) :
    s.runGetParam number chan = (s, [statusRange]) := by
  rw [State.runGetParam, none]
  rfl

theorem State.runGetParam_some {number : Byte} (chan : Byte) {p : Param} (some : paramOf number = some p) :
    s.runGetParam number chan =
      (s, if p.perChannel = true ∧ 15 < chan.toNat then [statusRange]
        else statusDone :: bytes2Of (s.paramValue p chan.toNat)) := by
  simp only [State.runGetParam, some, Bool.and_eq_true, decide_eq_true_eq]
  split <;> rfl

theorem exec_getParam_awaits {number chan : Byte} (h : s.Awaits [0x11, number, chan]) {reply : List Byte}
    (answer : s.runGetParam number chan = (s, reply)) :
    exec (.getParam number chan) s = .next (s.replied [0x11, number, chan] reply) :=
  congrArg Host.Outcome.next (State.read_awaits h answer)

theorem exec_readTile_awaits {chan tile : Byte} (h : s.Awaits [0x22, chan, tile]) :
    exec (.readTile chan tile) s = .next (s.replied [0x22, chan, tile]
      (if 15 < chan.toNat ∨ 63 < tile.toNat then [statusRange]
        else statusDone :: (s.chan chan.toNat).tileData tile.toNat)) :=
  congrArg Host.Outcome.next (State.read_awaits h (by split <;> rfl))

theorem exec_readChannel_awaits {chan : Byte} (h : s.Awaits [0x32, chan]) :
    exec (.readChannel chan) s = .next (s.replied [0x32, chan]
      (if 15 < chan.toNat then [statusRange] else statusDone :: (s.chan chan.toNat).channelData)) :=
  congrArg Host.Outcome.next (State.read_awaits h (by split <;> rfl))

/-- An unknown code is a command of its own only as the first byte (R170). -/
theorem State.Awaits.of_one {b : Byte} (h : s.Awaits [b]) : s.up = true ∧ s.mgmt.spi = .transaction [] none := by
  obtain ⟨up, held, spi, -, short⟩ := h
  obtain rfl : held = [] := List.length_eq_zero_iff.mp (Nat.lt_one_iff.mp short)
  exact ⟨up, spi⟩

theorem exec_unknownCommand_awaits {code : Byte} (unknown : argumentBytes code = none) (h : s.Awaits [code]) :
    exec (.unknownCommand code) s = .next (s.replied [code] [statusCode]) := by
  obtain ⟨up, spi⟩ := h.of_one
  have complete : commandOf none ([] ++ [code]) ≠ none := by simp [commandOf_unknown none unknown]
  refine congrArg Host.Outcome.next ?_
  rw [if_pos up, State.unknownByte]
  simp only [spi, if_neg complete, if_pos unknown]
  exact State.runCommand_awaits h _

end Replies

/-! ### Commands that the bytes held do not begin (log entry 14) -/

theorem State.command_unbegun {s : State} {held l : List Byte} (h : s.mgmt.spi = .transaction held none)
    (other : ¬ held <+: l) (run : State → State × List Byte) : (if s.up then s.runCommand l run else s) = s := by
  have unbegun : held.isPrefixOf l = false := Bool.eq_false_iff.mpr (mt List.isPrefixOf_iff_prefix.mp other)
  simp [State.runCommand, h, unbegun]

/-- This is said of every command with a row of its own; a byte of another code is held or refused instead. -/
theorem exec_unbegun {s : State} {held l : List Byte} {c : Instr} (h : s.mgmt.spi = .transaction held none)
    (hl : c.bytes = some l) (known : ∀ code, c ≠ .unknownCommand code) (other : ¬ held <+: l) : exec c s = .next s := by
  cases c
  case unknownCommand code => exact absurd rfl (known code)
  all_goals cases hl
  all_goals exact congrArg Host.Outcome.next (State.command_unbegun h other _)

/-- Settles O43. -/
theorem readsReplyAndChangeNothing : Obligations.ReadsReplyAndChangeNothing := by
  intro s
  refine ⟨exec_identify_awaits, ?status, fun cls awaits => ?fault, fun number chan awaits => ?param,
    fun chan tile awaits => ?tile, fun chan awaits => ?channel, fun code => exec_unknownCommand_awaits,
    fun held spi c bytes hl known other => exec_unbegun spi hl known other⟩
  case status =>
    intro awaits device reference loan sweep position count selftest operating halted absent locked flywheel noLoan
      requested granted idle ending running canonical regions counts
    have up : s.device ≠ .inReset := fun reset => by cases awaits.1.symm.trans (State.up_inReset reset)
    obtain ⟨sweepNumber, location⟩ := Sweep.number_location idle ending running
    rw [exec_readStatus_awaits awaits, State.statusData_counts canonical regions counts,
      Device.number_eq up selftest operating halted, RefState.number_eq absent locked flywheel,
      Loan.number_eq noLoan requested granted, sweepNumber, location]
    rfl
  case fault =>
    rw [exec_readFault_awaits awaits]
    refine ⟨fun outside => by rw [if_pos outside]; rfl, fun inside => ?_⟩
    rw [if_neg (Nat.not_lt.mpr inside), ClassState.faultData]
    exact ⟨fun absent => by rw [absent]; rfl, fun x present => by rw [present]; rfl⟩
  case param =>
    refine ⟨fun none => exec_getParam_awaits awaits (State.runGetParam_none chan none),
      fun p some perChannel outside => ?_, fun p some inside => ?_⟩
    · rw [exec_getParam_awaits awaits (State.runGetParam_some chan some), if_pos ⟨perChannel, outside⟩]
      rfl
    · have inRange : ¬ (p.perChannel = true ∧ 15 < chan.toNat) := by
        rintro ⟨perChannel, outside⟩
        exact inside.elim (fun device => by simp [device] at perChannel) (Nat.not_le.mpr outside)
      rw [exec_getParam_awaits awaits (State.runGetParam_some chan some), if_neg inRange]
      rfl
  case tile =>
    rw [exec_readTile_awaits awaits]
    refine ⟨fun outside => by rw [if_pos outside]; rfl, fun chanInside tileInside => ?_⟩
    rintro _ fields slot _ _ rfl unassigned unknown known free assigned rfl rfl
    have fields_eq := TileState.fields_eq unassigned unknown known
    rw [if_neg (by omega), Channel.tileData_eq _ _ free assigned, fields_eq, fields_eq]
    rfl
  case channel =>
    rw [exec_readChannel_awaits awaits]
    refine ⟨fun outside => by rw [if_pos outside]; rfl, fun inside => ?_⟩
    rintro _ state cursor _ _ last rfl stopped listening starting running lost noCursor atCursor rfl rfl absent present
    rw [if_neg (Nat.not_lt.mpr inside),
      Channel.channelData_eq _ (ChannelState.number_eq stopped listening starting running lost) noCursor atCursor
        (statusRecordData_eq absent present)]
    rfl

end Sys2Proof.Machine
end

section
/-! The switch point at the gather unit and at the channels 0 to 15, with the faults each records (R91, R92, R99, R104), and
the frame reference's events that make one: E in ABSENT, a pulse, the window's end (R85 to R90). -/

namespace Sys2Proof.Machine

/-! ### The faults of a channel's part (R140, R161, R164) -/

/-- A class that takes the faults of channel `c` in order, under one frame tag. -/
def ClassState.channelFaults (st : ClassState) (c : Nat) (tag : BitVec 16) (kinds : List FaultKind) : ClassState :=
  kinds.foldl (fun st k => st.record { kind := k, origin := .channel, location := .channel c, tag }) st

theorem State.classState_channelFaults (s : State) (c : Nat) {kinds : List FaultKind}
    (channel : ∀ k ∈ kinds, k.cls = .channel) (n : Nat) :
    (s.channelFaults c kinds).classState n =
      if n = 2 then (s.classState n).channelFaults c s.tag kinds else s.classState n := by
  induction kinds generalizing s with
  | nil => exact (ite_self _).symm
  | cons k kinds ih =>
    obtain ⟨first, rest⟩ := List.forall_mem_cons.mp channel
    have number : k.cls.number = 2 := congrArg FaultClass.number first
    refine (ih (s.recordFault k .channel (.channel c)) rest).trans ?_
    rw [State.classState_recordFault, number]
    by_cases hn : n = 2
    · subst hn
      rfl
    · rw [if_neg hn, if_neg hn, if_neg (Ne.symm hn)]

theorem Channel.account_faults_cls (ch : Channel) : ∀ k ∈ ch.account.2, k.cls = .channel := by
  unfold Channel.account
  split
  · simp [FaultKind.cls]
  · split <;> simp [FaultKind.cls]

theorem Channel.countTick_faults_cls (ch : Channel) : ∀ k ∈ ch.countTick.2, k.cls = .channel := by
  unfold Channel.countTick
  split
  · split <;> simp [FaultKind.cls]
  · simp

theorem Channel.switchPoint_faults_cls (ch : Channel) (c now : Nat) (tag : BitVec 16) :
    ∀ k ∈ (ch.switchPoint c now tag).2, k.cls = .channel := by
  unfold Channel.switchPoint
  split
  case h_1 | h_2 | h_5 => simp
  case h_3 => split <;> simp [FaultKind.cls]
  case h_4 =>
    exact fun k hk => (List.mem_append.mp hk).elim (ch.account_faults_cls k) (ch.account.1.countTick_faults_cls k)

/-! ### The channels 0 to 15 at a switch point (R92) -/

theorem State.Only.tag {fs : List Field} {s t : State} (h : s.Only fs t) (hf : Field.frame ∉ fs) : t.tag = s.tag := by
  rw [State.tag, h.frame hf, State.tag]

theorem State.chan_channelSwitchPoint (s : State) (c j : Nat) :
    (s.channelSwitchPoint c).chan j = if c = j then ((s.chan c).switchPoint c s.now s.tag).1 else s.chan j :=
  ((State.channelFaults_only ..).chan (by decide) j).trans (s.chan_setChan ..)

theorem State.classState_channelSwitchPoint (s : State) (c n : Nat) :
    (s.channelSwitchPoint c).classState n =
      if n = 2 then (s.classState n).channelFaults c s.tag ((s.chan c).switchPoint c s.now s.tag).2 else s.classState n :=
  State.classState_channelFaults _ c ((s.chan c).switchPoint_faults_cls c s.now s.tag) n

/-- Each channel takes its own part, whatever the channels before it did. -/
theorem State.chan_foldl_channelSwitchPoint (s : State) {l : List Nat} (distinct : l.Nodup) (j : Nat) :
    (l.foldl State.channelSwitchPoint s).chan j =
      if j ∈ l then ((s.chan j).switchPoint j s.now s.tag).1 else s.chan j := by
  induction l generalizing s with
  | nil => rfl
  | cons c l ih =>
    obtain ⟨fresh, distinct⟩ := List.nodup_cons.mp distinct
    have frame := s.channelSwitchPoint_only c
    rw [List.foldl_cons, ih _ distinct, State.chan_channelSwitchPoint, frame.now (by decide), frame.tag (by decide)]
    by_cases own : c = j
    · subst own
      simp [fresh]
    · simp [own, Ne.symm own]

/-- The channels' faults reach the CHANNEL class in the channels' order, each as the channel stood before the switch point. -/
theorem State.classState_foldl_channelSwitchPoint (s : State) {l : List Nat} (distinct : l.Nodup) (n : Nat) :
    (l.foldl State.channelSwitchPoint s).classState n =
      if n = 2 then
        l.foldl (fun st c => st.channelFaults c s.tag ((s.chan c).switchPoint c s.now s.tag).2) (s.classState n)
      else s.classState n := by
  induction l generalizing s with
  | nil => exact (ite_self _).symm
  | cons c l ih =>
    obtain ⟨fresh, distinct⟩ := List.nodup_cons.mp distinct
    have frame := s.channelSwitchPoint_only c
    rw [List.foldl_cons, ih _ distinct, State.classState_channelSwitchPoint, frame.now (by decide),
      frame.tag (by decide)]
    by_cases hn : n = 2
    · rw [if_pos hn, if_pos hn, if_pos hn, List.foldl_cons]
      refine List.foldl_ext _ _ _ fun st j hj => ?_
      rw [State.chan_channelSwitchPoint, if_neg (ne_of_mem_of_not_mem hj fresh).symm]
    · rw [if_neg hn, if_neg hn, if_neg hn]

/-! ### The gather unit (R99, R104) -/

theorem State.classState_gatherSwitchPoint (s : State) {n : Nat} (other : n ≠ 4) :
    s.gatherSwitchPoint.classState n = s.classState n := by
  unfold State.gatherSwitchPoint
  split
  · exact s.closeGather_only.classState (by decide) n
  · exact (State.classState_recordFault ..).trans (if_neg other.symm)

theorem State.nextVisit_congr {s t : State} (chans : t.chans = s.chans) : t.nextVisit = s.nextVisit := by
  have tiles : t.slotTile = s.slotTile := by
    funext k
    rw [State.slotTile, State.chan, chans, State.slotTile, State.chan]
  funext e position
  cases e <;> simp only [State.nextVisit, State.visits, State.watches, State.showsSource, tiles]

theorem State.firstItem_congr {s t : State} (chans : t.chans = s.chans) (l : List (Entry × Value)) (i : Nat) :
    t.firstItem l i = s.firstItem l i := by
  induction l generalizing i with
  | nil => rfl
  | cons p l ih => rw [State.firstItem, State.firstItem, State.nextVisit_congr chans, ih]

/-- The engine takes a record up by the assignments, which are the channels'. -/
theorem State.takeUp_congr {s t : State} (chans : t.chans = s.chans) (l : List TakeRecord) : t.takeUp l = s.takeUp l := by
  induction l with
  | nil => rfl
  | cons r l ih => rw [State.takeUp, State.takeUp, State.firstItem_congr chans, ih]

theorem State.setEngine_takeUp_setFrame (s : State) (x : FrameRef) (l : List TakeRecord) :
    ({ s with frame := x } : State).setEngine (State.takeUp { s with frame := x } l) =
      { s.setEngine (s.takeUp l) with frame := x } := by
  rw [State.takeUp_congr (s := s) (t := { s with frame := x }) rfl]
  rfl

/-- Of the frame reference the gather unit reads F alone. -/
theorem State.gatherSwitchPoint_setFrame (s : State) {x : FrameRef} (count : x.count = s.frame.count) :
    ({ s with frame := x } : State).gatherSwitchPoint = { s.gatherSwitchPoint with frame := x } := by
  have changes : ({ s with frame := x } : State).closeChanges = s.closeChanges := rfl
  rw [State.gatherSwitchPoint, State.gatherSwitchPoint]
  split
  · rw [State.closeGather, State.closeGather, changes]
    dsimp only
    rw [count]
    split
    · rfl
    · cases s.fanout with
      | some at_ => rfl
      | none =>
        exact State.setEngine_takeUp_setFrame
          { s with gather := { s.gather with dirty := [], bounced := _ }, fanout := none } x _
  · rw [State.lateTake, State.recordFault, State.tag, count]
    rfl

/-! ### One switch point (R91, R92) -/

theorem State.switchPoint_frame (s : State) :
    s.switchPoint.frame = { s.frame with count := s.frame.count + 1 } :=
  ((State.Only.foldl _ State.channelSwitchPoint_only ..).frame (by decide)).trans
    ((State.gatherSwitchPoint_only _).frame (by decide))

/-- The gather unit takes the switch point with the new F, then each channel with the new tag; the fault classes 2 and 4 are
the only ones they record in. -/
theorem State.switchPoint_made (s : State) : s.MadeSwitchPoint s.switchPoint := by
  generalize hu : ({ s with frame := { s.frame with count := s.frame.count + 1 } } : State) = u
  have counted : s.Only [.frame] u := hu ▸ s.setFrame_only _
  have gathered : s.Only [.frame, .gather, .fanout, .faults] u.gatherSwitchPoint :=
    (counted.mono (by decide)).trans (u.gatherSwitchPoint_only.mono (by decide))
  have made : s.switchPoint = (List.range Config.channels).foldl State.channelSwitchPoint u.gatherSwitchPoint := hu ▸ rfl
  have channels := State.Only.foldl _ State.channelSwitchPoint_only (List.range Config.channels) u.gatherSwitchPoint
  have tag : u.gatherSwitchPoint.tag = (s.frame.count + 1).extractLsb' 0 16 :=
    (u.gatherSwitchPoint_only.tag (by decide)).trans (hu ▸ rfl)
  have now : u.gatherSwitchPoint.now = s.now := gathered.now (by decide)
  have chan : u.gatherSwitchPoint.chan = s.chan := funext (gathered.chan (by decide))
  have classes : ∀ n, n ≠ 4 → u.gatherSwitchPoint.classState n = s.classState n := fun n hn =>
    (u.classState_gatherSwitchPoint hn).trans (counted.classState (by decide) n)
  have record := u.gatherSwitchPoint.classState_foldl_channelSwitchPoint (List.nodup_range (n := Config.channels))
  rw [← made] at channels record
  refine ⟨s.switchPoint_count, ?_, fun c hc => ?_, ?_, fun n h2 h4 => ?_⟩
  · rintro _ rfl
    rw [hu]
    exact ⟨channels.gather (by decide), channels.fanout (by decide), record 4⟩
  · rw [made, State.chan_foldl_channelSwitchPoint _ List.nodup_range, if_pos (List.mem_range.mpr hc), chan, now, tag]
  · rw [record 2, if_pos rfl, classes 2 (by decide), chan, now, tag]
    rfl
  · rw [record n, if_neg h2, classes n h4]

theorem State.Only.exists_setFrame {s t : State} (h : s.Only [.frame] t) : ∃ x, t = { s with frame := x } := by
  refine ⟨t.frame, ?_⟩
  cases s
  cases t
  simp only [State.mk.injEq, true_and]
  exact ⟨h.device (by decide), h.straps (by decide), h.loanReq (by decide), h.now (by decide), h.portA (by decide),
    h.portB (by decide), h.memPort (by decide), h.loan (by decide), h.shadow (by decide), h.fetch (by decide),
    h.faults (by decide), h.gather (by decide), h.fanout (by decide), h.chans (by decide), h.params (by decide),
    h.mgmt (by decide), h.pending (by decide)⟩

/-- The parts of a switch point read nothing of the frame reference but F, nor of the REFERENCE event, so what an event
changes of these before it or after it leaves it a switch point. -/
theorem State.Switched.made {s t : State} (h : s.Switched t) : s.MadeSwitchPoint t := by
  have counted := h.count
  obtain ⟨u, before, count, after, -⟩ := h
  obtain ⟨x, rfl⟩ := before.exists_setFrame
  replace count : x.count = s.frame.count := count
  have gathered := State.gatherSwitchPoint_setFrame { s with frame := { s.frame with count := s.frame.count + 1 } }
    (x := { x with count := x.count + 1 }) (congrArg (· + 1) count)
  obtain ⟨-, gather, chan, channel, others⟩ := ({ s with frame := x } : State).switchPoint_made
  obtain ⟨takes, engine, image⟩ := gather _ rfl
  rw [gathered] at takes engine image
  rw [count] at chan channel
  refine ⟨counted, ?_, fun c hc => ?_, ?_, fun n h2 h4 => ?_⟩
  · rintro _ rfl
    exact ⟨(after.gather (by decide)).trans takes, (after.fanout (by decide)).trans engine,
      (after.classState (by decide) 4).trans image⟩
  · exact (after.chan (by decide) c).trans (chan c hc)
  · exact (after.classState (by decide) 2).trans channel
  · exact (after.classState (by decide) n).trans (others n h2 h4)

/-! ### The frame reference after a switch point (R85, R91, R93) -/

/-- What a switch point with its switch time set leaves of the frame reference. -/
theorem State.setSwitchTime_switchPoint_frame (s : State) (last : Nat) (latest : Option Nat) (state : RefState) :
    (s.switchPoint.setSwitchTime last latest state).frame =
      { s.frame with
        state, lastSwitch := last, expected := last + s.params.p0, halfWidth := s.params.p0 / 128, latest
        count := s.frame.count + 1 } := by
  rw [State.setSwitchTime, s.switchPoint_frame, s.switchPoint_only.params (by decide)]
  rfl

/-- REFERENCE raised on a condition leaves the frame reference alone. -/
theorem State.raiseReference_if_frame (s : State) (P : Prop) [Decidable P] :
    (if P then s.raiseReference else s).frame = s.frame := by
  split <;> rfl

theorem State.raiseReference_if_mgmt (s : State) (P : Prop) [Decidable P] :
    (if P then s.raiseReference else s).mgmt = { s.mgmt with reference := s.mgmt.reference || decide P } := by
  split
  case isTrue h => rw [decide_eq_true h, Bool.or_true, State.raiseReference]
  case isFalse h => rw [decide_eq_false h, Bool.or_false]

/-! ### E in ABSENT (R86) -/

theorem exec_freeRunningSwitchPoint {s : State} (up : s.up = true) :
    exec .freeRunningSwitchPoint s = .next (if s.freeRunDue then s.freeRun else s) := by
  rw [exec, execFreeRunningSwitchPoint, up, Bool.true_and]

theorem State.freeRunDue_iff (s : State) : s.freeRunDue = true ↔ s.frame.state = .absent ∧ s.frame.expected ≤ s.now :=
  decide_eq_true_iff

/-- Settles O27. -/
theorem freeRunningSwitchPoint : Obligations.FreeRunningSwitchPoint := by
  intro s up
  rw [exec_freeRunningSwitchPoint up]
  refine ⟨fun absent due => ?due, fun early => ?early⟩
  case due =>
    rw [if_pos (s.freeRunDue_iff.mpr ⟨absent, due⟩)]
    refine ⟨s.freeRun, rfl, s.freeRun_switched.made, ?_, s.freeRun_only⟩
    rw [State.freeRun, ← absent, State.setSwitchTime_switchPoint_frame]
  case early =>
    have waits : ¬ (s.freeRunDue = true) := fun h => by
      obtain ⟨absent, due⟩ := s.freeRunDue_iff.mp h
      exact early.elim (· absent) (Nat.not_lt.mpr due)
    rw [if_neg waits]

/-! ### The window's end (R89) -/

theorem exec_windowExpiry {s : State} (up : s.up = true) :
    exec .windowExpiry s = .next (if s.windowDue then s.flywheel else s) := by
  rw [exec, execWindowExpiry, up, Bool.true_and]

theorem State.windowDue_iff (s : State) :
    s.windowDue = true ↔ s.frame.state ≠ .absent ∧ s.frame.expected + s.frame.halfWidth ≤ s.now :=
  decide_eq_true_iff

/-- Settles O30. -/
theorem windowExpires : Obligations.WindowExpires := by
  intro s up
  rw [exec_windowExpiry up]
  refine ⟨fun present due => ?due, fun early => ?early⟩
  case due =>
    rw [if_pos (s.windowDue_iff.mpr ⟨present, due⟩)]
    refine ⟨s.flywheel, rfl, s.flywheel_switched.made, ?_, ?_, s.flywheel_only⟩
    · rw [State.flywheel, State.raiseReference_if_frame, State.setSwitchTime_switchPoint_frame]
    · rw [State.flywheel, State.raiseReference_if_mgmt, (State.setSwitchTime_only ..).mgmt (by decide),
        s.switchPoint_only.mgmt (by decide)]
  case early =>
    have waits : ¬ (s.windowDue = true) := fun h => by
      obtain ⟨present, due⟩ := s.windowDue_iff.mp h
      exact early.elim present (Nat.not_lt.mpr due)
    rw [if_neg waits]

/-! ### A pulse in the window (R87) -/

theorem exec_refinPulse {s : State} (up : s.up = true) : exec .refinPulse s = .next s.pulse := by
  rw [exec, execRefinPulse, if_pos up]

theorem State.acceptPulse_switched (s : State) (t : Nat) : s.Switched (s.acceptPulse t) := by
  unfold State.acceptPulse
  dsimp only
  split
  · exact (s.switched_setSwitchTime ..).cleared.raised
  · exact (s.switched_setSwitchTime ..).cleared

/-- Settles O28. -/
theorem pulseAccepted : Obligations.PulseAccepted := by
  intro s up present opened unclosed
  have accepts : s.pulse = s.acceptPulse s.now := if_pos ⟨present, opened, unclosed⟩
  rw [exec_refinPulse up, accepts]
  refine ⟨s.acceptPulse s.now, rfl, (s.acceptPulse_switched _).made, ?_, ?_, s.acceptPulse_only _⟩
  · rw [State.acceptPulse, State.raiseReference_if_frame, State.clearCandidates, State.setSwitchTime_switchPoint_frame]
  · rw [State.acceptPulse, State.raiseReference_if_mgmt, (State.clearCandidates_only _).mgmt (by decide),
      (State.setSwitchTime_only ..).mgmt (by decide), s.switchPoint_only.mgmt (by decide)]

/-! ### A pulse outside the window (R88, R90) -/

/-- A rejected pulse joined to the candidates and, outside ABSENT, counted as noise (R88). -/
def State.withCandidate (s : State) : State :=
  { s with frame := { s.frame with
      candidates := s.joined
      noise := if s.frame.state = .absent then s.frame.noise else min (s.frame.noise + 1) 65535 } }

theorem State.joinCandidates_eq_joined (s : State) : joinCandidates s.frame.candidates s.now = s.joined := by
  rw [joinCandidates, State.joined, List.drop_append_of_le_length (Nat.sub_le ..)]
  split
  case isTrue => rfl
  case isFalse few => rw [Nat.sub_eq_zero_of_le (by omega), List.drop_zero]

/-- The newest candidate is the pulse that has just joined. -/
theorem State.reacquires_joined (s : State) :
    reacquires s.params.p0 s.joined = true ↔
      ∃ c1 c2, s.joined = [c1, c2, s.now] ∧ FrameSpaced s.params.p0 c1 c2 ∧ FrameSpaced s.params.p0 c2 s.now := by
  have newest : s.joined = s.frame.candidates.drop (s.frame.candidates.length - 2) ++ [s.now] :=
    List.drop_append_of_le_length (Nat.sub_le ..)
  generalize s.joined = l at newest
  constructor
  · unfold reacquires
    split
    case h_1 c1 c2 c3 =>
      intro spaced
      obtain ⟨first, first', second, second'⟩ := decide_eq_true_iff.mp spaced
      obtain rfl : c3 = s.now := by simpa using congrArg List.getLast? newest
      exact ⟨c1, c2, rfl, ⟨first, first'⟩, second, second'⟩
    case h_2 => exact nofun
  · rintro ⟨c1, c2, rfl, ⟨first, first'⟩, second, second'⟩
    exact decide_eq_true ⟨first, first', second, second'⟩

theorem State.pulse_outside {s : State} (outside : s.OutsideWindow) :
    s.pulse =
      if s.frame.state ≠ .locked ∧ reacquires s.params.p0 s.joined = true then s.withCandidate.reacquire s.now
      else s.withCandidate := by
  have rejects : s.pulse = s.rejectPulse s.now := if_neg fun ⟨present, opened, unclosed⟩ => by
    obtain absent | early | late := outside
    · exact present absent
    · omega
    · omega
  rw [rejects, State.rejectPulse, State.joinCandidates_eq_joined]
  rfl

theorem State.reacquire_switched {s : State} {t : Nat} (fresh : s.frame.latest ≠ some t) : s.Switched (s.reacquire t) := by
  rw [State.reacquire, if_neg fresh]
  exact (s.switched_setSwitchTime ..).cleared.raised

/-- Settles O29. -/
theorem pulseRejectedOrReacquired : Obligations.PulseRejectedOrReacquired := by
  rintro s up outside _ rfl
  rw [exec_refinPulse up, State.pulse_outside outside]
  refine ⟨fun quiet => ?rejected, fun c1 c2 unlocked three first second => ?reacquired⟩
  case rejected =>
    have stays : ¬ (s.frame.state ≠ .locked ∧ reacquires s.params.p0 s.joined = true) := by
      rintro ⟨unlocked, reacquired⟩
      obtain ⟨c1, c2, three, spaced⟩ := s.reacquires_joined.mp reacquired
      exact quiet.elim unlocked fun apart => apart c1 c2 three spaced
    rw [if_neg stays, State.withCandidate]
  case reacquired =>
    rw [if_pos ⟨unlocked, s.reacquires_joined.mpr ⟨c1, c2, three, first, second⟩⟩]
    refine ⟨fun fresh => ?fresh, fun made => ?made⟩
    case fresh =>
      have joined : s.Only [.frame] s.withCandidate := s.setFrame_only _
      have fresh : s.withCandidate.frame.latest ≠ some s.now := fresh
      refine ⟨_, rfl, ((State.reacquire_switched fresh).before joined rfl).made, ?_, ?_,
        (joined.mono (by decide)).trans (State.reacquire_only ..)⟩
      · rw [State.reacquire, if_neg fresh, State.raiseReference, State.clearCandidates,
          State.setSwitchTime_switchPoint_frame]
        rfl
      · rw [State.reacquire, if_neg fresh, State.raiseReference, (State.clearCandidates_only _).mgmt (by decide),
          (State.setSwitchTime_only ..).mgmt (by decide), (State.switchPoint_only _).mgmt (by decide)]
        rfl
    case made =>
      have made : s.withCandidate.frame.latest = some s.now := made
      rw [State.reacquire, if_pos made]
      rfl

end Sys2Proof.Machine
end

section
/-! The gather unit (R95 to R104): the dirty list as it is reported to and closed, and the record the close makes, which the
fan-out engine takes up at the first item with a visit (R102, R116). -/

namespace Sys2Proof.Machine

/-! ### Where the engine takes a record up (R102, R116) -/

theorem State.firstItem_append {s : State} {before : List (Entry × Value)} (idle : s.NoVisit before)
    (l : List (Entry × Value)) (i : Nat) : s.firstItem (before ++ l) i = s.firstItem l (i + before.length) := by
  induction before generalizing i with
  | nil => rfl
  | cons p before ih =>
    obtain ⟨head, tail⟩ := List.forall_mem_cons.mp idle
    rw [List.cons_append, State.firstItem, head, Option.isSome_none, if_neg Bool.false_ne_true, ih tail, List.length_cons,
      Nat.add_right_comm, Nat.add_assoc]

theorem State.firstItem_eq_none {s : State} {l : List (Entry × Value)} (idle : s.NoVisit l) (i : Nat) :
    s.firstItem l i = none := by
  have := s.firstItem_append idle [] i
  rwa [List.append_nil] at this

theorem State.firstItem_eq_some {s : State} {before : List (Entry × Value)} {e : Entry} (idle : s.NoVisit before)
    (visit : (s.nextVisit e none).isSome = true) (v : Value) (later : List (Entry × Value)) (i : Nat) :
    s.firstItem (before ++ (e, v) :: later) i = some (i + before.length) := by
  rw [State.firstItem_append idle, State.firstItem, if_pos visit]

theorem State.takeUp_cons_of_visit {s : State} {r : TakeRecord} {before later : List (Entry × Value)} {e : Entry} {v : Value}
    (changes : r.changes = before ++ (e, v) :: later) (idle : s.NoVisit before)
    (visit : (s.nextVisit e none).isSome = true) (behind : List TakeRecord) :
    s.takeUp (r :: behind) = (r :: behind, some { item := before.length, position := none }) := by
  rw [State.takeUp, changes, State.firstItem_eq_some idle visit, Nat.zero_add]

theorem State.takeUp_append {s : State} {skipped : List TakeRecord} (idle : ∀ r ∈ skipped, s.NoVisit r.changes)
    (l : List TakeRecord) : s.takeUp (skipped ++ l) = s.takeUp l := by
  induction skipped with
  | nil => rfl
  | cons r skipped ih =>
    obtain ⟨head, tail⟩ := List.forall_mem_cons.mp idle
    rw [List.cons_append, State.takeUp, State.firstItem_eq_none head]
    exact ih tail

theorem State.takeUp_eq_idle {s : State} {l : List TakeRecord} (idle : ∀ r ∈ l, s.NoVisit r.changes) :
    s.takeUp l = ([], none) := by
  have := s.takeUp_append idle []
  rwa [List.append_nil] at this

/-! ### The close (R99) -/

/-- The changes of a close: the dirty entries that differ from their value before, each with its tracked value. -/
theorem State.closeChanges_eq (s : State) : s.closeChanges =
    (s.gather.dirty.filter fun p => decide (s.tracked p.1 ≠ p.2)).map (fun p => (p.1, s.tracked p.1)) := by
  rw [State.closeChanges]
  induction s.gather.dirty with
  | nil => rfl
  | cons p l ih => by_cases h : s.tracked p.1 = p.2 <;> simp [h, ih]

/-- Each dirty entry is a change of the close or a bounce. -/
theorem State.closeChanges_bounces (s : State) : s.gather.dirty.length - s.closeChanges.length =
    (s.gather.dirty.filter fun p => decide (s.tracked p.1 = p.2)).length := by
  have total := List.length_eq_length_filter_add (l := s.gather.dirty) fun p => decide (s.tracked p.1 = p.2)
  rw [State.closeChanges_eq, List.length_map]
  simp only [decide_not] at total ⊢
  omega

/-- The gather once its dirty list is closed and its bounces are counted. -/
def State.closedGather (s : State) : Gather :=
  { s.gather with
    dirty := []
    bounced := min (s.gather.bounced + (s.gather.dirty.filter fun p => decide (s.tracked p.1 = p.2)).length) 65535 }

/-- The record a close makes (R99, R100). -/
def State.closeRecord (s : State) : TakeRecord := { number := s.frame.count, changes := s.closeChanges }

theorem State.closeGather_unchanged {s : State} (h : s.closeChanges = []) :
    s.closeGather = { s with gather := s.closedGather } := by
  rw [State.closeGather, s.closeChanges_bounces]
  exact if_pos h

theorem State.closeGather_busy {s : State} (h : s.closeChanges ≠ []) (busy : s.fanout.isSome = true) :
    s.closeGather =
      { s with gather := { s.closedGather with takeQueue := s.gather.takeQueue ++ [s.closeRecord] } } := by
  obtain ⟨at_, busy⟩ := Option.isSome_iff_exists.mp busy
  rw [State.closeGather, s.closeChanges_bounces, busy]
  exact if_neg h

theorem State.closeGather_idle {s : State} (h : s.closeChanges ≠ []) (idle : s.fanout = none) :
    s.closeGather = { s with gather := s.closedGather }.setEngine (s.takeUp (s.gather.takeQueue ++ [s.closeRecord])) := by
  rw [← State.takeUp_congr (s := s) (t := { s with gather := s.closedGather, fanout := none }) rfl, State.closeGather,
    s.closeChanges_bounces, idle]
  exact if_neg h

theorem State.gatherSwitchPoint_room {s : State} (room : s.gather.takeQueue.length < 4) :
    s.gatherSwitchPoint = s.closeGather := if_pos room

theorem State.gatherSwitchPoint_full {s : State} (full : 4 ≤ s.gather.takeQueue.length) :
    s.gatherSwitchPoint = s.lateTake := if_neg (Nat.not_lt.mpr full)

/-- Whatever becomes of the record, the close empties the dirty list, counts the bounces and leaves the late takes. -/
theorem State.closeGather_gather (s : State) :
    s.closeGather.gather = { s.closedGather with takeQueue := s.closeGather.gather.takeQueue } := by
  by_cases h : s.closeChanges = []
  · rw [State.closeGather_unchanged h]
  · cases busy : s.fanout with
    | some at_ => rw [State.closeGather_busy h (by rw [busy]; rfl)]
    | none =>
      rw [State.closeGather_idle h busy]
      rfl

/-- With no entry dirty, each on-air value is the tracked one (R98). -/
theorem State.onAir_of_clean {s : State} (clean : s.gather.dirty = []) (e : Entry) : s.onAir e = s.tracked e := by
  rw [State.onAir, clean]
  rfl

/-- Settles O31. -/
theorem gatherCloses : Obligations.GatherCloses := by
  intro s items room closed
  rw [← s.closeChanges_eq] at closed
  subst closed
  rw [State.gatherSwitchPoint_room room]
  have gather := s.closeGather_gather
  have only := s.closeGather_only
  refine ⟨by rw [gather]; rfl, by rw [gather]; rfl, by rw [gather]; rfl, fun bounced => ?bounced, fun changed busy => ?busy,
    fun changed idle empty => ⟨fun i e v item visit first => ?visit, fun quiet => ?quiet⟩, fun e => ?onAir, only⟩
  case bounced =>
    rw [State.closeGather_unchanged bounced]
    exact ⟨rfl, rfl⟩
  case busy =>
    rw [State.closeGather_busy changed busy]
    exact ⟨rfl, rfl⟩
  case visit =>
    obtain ⟨lt, get⟩ := List.getElem?_eq_some_iff.mp item
    have changes : s.closeRecord.changes = s.closeChanges.take i ++ (e, v) :: s.closeChanges.drop (i + 1) := by
      rw [← get, ← List.drop_eq_getElem_cons lt, List.take_append_drop]
      rfl
    have before : s.NoVisit (s.closeChanges.take i) := fun p mem => by
      obtain ⟨j, ltj, rfl⟩ := List.mem_take_iff_getElem.mp mem
      exact first j _ _ (by omega) (List.getElem?_eq_getElem (by omega))
    rw [State.closeGather_idle changed idle, empty, List.nil_append, State.takeUp_cons_of_visit changes before visit,
      List.length_take_of_le (by omega)]
    exact ⟨rfl, rfl⟩
  case quiet =>
    rw [State.closeGather_idle changed idle, empty, List.nil_append, State.takeUp_eq_idle (List.forall_mem_singleton.mpr quiet)]
    exact ⟨rfl, rfl⟩
  case onAir =>
    rw [State.onAir_of_clean (by rw [gather]; rfl), State.tracked_congr (only.shadow (by decide)) (only.straps (by decide))]

/-! ### Reports and the late take (R96, R98, R104) -/

theorem State.report_listed {s : State} {e : Entry} (v : Value) (listed : ∃ p ∈ s.gather.dirty, p.1 = e) :
    s.report e v = s := by
  obtain ⟨w, found⟩ := Option.ne_none_iff_exists'.mp fun absent =>
    dirtyValue_none.mp absent (List.mem_map.mpr listed)
  rw [State.report, found]

theorem State.dirtyValue_unlisted {s : State} {e : Entry} (unlisted : ∀ p ∈ s.gather.dirty, p.1 ≠ e) :
    dirtyValue s.gather.dirty e = none :=
  dirtyValue_none.mpr fun mem =>
    have ⟨p, mem, same⟩ := List.mem_map.mp mem
    unlisted p mem same

theorem State.report_unlisted {s : State} {e : Entry} (v : Value) (unlisted : ∀ p ∈ s.gather.dirty, p.1 ≠ e) :
    s.report e v = { s with gather := { s.gather with dirty := s.gather.dirty ++ [(e, v)] } } := by
  rw [State.report, State.dirtyValue_unlisted unlisted]

/-- A late take keeps the dirty list and so every on-air value (R104). -/
theorem State.onAir_lateTake (s : State) (e : Entry) : s.lateTake.onAir e = s.onAir e :=
  State.onAir_congr (s.lateTake_only.shadow (by decide)) (s.lateTake_only.straps (by decide)) rfl e

/-- Settles O32. -/
theorem dirtyListAndLateTake : Obligations.DirtyListAndLateTake := by
  refine fun s => ⟨fun e v unlisted => ⟨State.report_unlisted v unlisted, ?_⟩, fun e v => State.report_listed v,
    fun full => ?_⟩
  · rw [State.onAir, State.dirtyValue_report, State.dirtyValue_unlisted unlisted, if_pos rfl]
    rfl
  · rw [State.gatherSwitchPoint_full full]
    exact ⟨rfl, s.onAir_lateTake⟩

end Sys2Proof.Machine
end

section
/-! The visits of the fan-out engine (R116 to R119): the next slot after the engine's position, the tile that joins its
channel's queue with the slot decision it may make (R126, R131), and where the engine stands after the visit. -/

namespace Sys2Proof.Machine

/-! ### The next slot (R116 to R118) -/

theorem afterPosition_iff {position : Option Nat} {k : Nat} :
    afterPosition position k = true ↔ ∀ p, position = some p → p < k := by
  cases position <;> simp [afterPosition]

theorem State.nextVisit_eq_some_iff {s : State} {e : Entry} {position : Option Nat} {k : Nat} :
    s.nextVisit e position = some k ↔ k < 1024 ∧ (∀ p, position = some p → p < k) ∧ s.visits e k = true ∧
      ∀ j, j < k → (∀ p, position = some p → p < j) → s.visits e j = false := by
  simp only [State.nextVisit, List.find?_range_eq_some, Bool.and_eq_true, List.mem_range, Bool.not_and, Bool.or_eq_true,
    Bool.not_eq_true', ← afterPosition_iff, show slotCount = 1024 from rfl]
  grind

theorem State.nextVisit_eq_none_iff {s : State} {e : Entry} {position : Option Nat} :
    s.nextVisit e position = none ↔ ∀ j, j < 1024 → (∀ p, position = some p → p < j) → s.visits e j = false := by
  simp only [State.nextVisit, List.find?_range_eq_none, Bool.not_and, Bool.or_eq_true,
    Bool.not_eq_true', ← afterPosition_iff, show slotCount = 1024 from rfl]
  grind

/-- What the engine looks for after a slot it has visited. -/
theorem State.nextVisit_after_eq_none_iff {s : State} {e : Entry} {k : Nat} :
    s.nextVisit e (some k) = none ↔ ∀ j, k < j → j < 1024 → s.visits e j = false := by
  rw [State.nextVisit_eq_none_iff]
  grind

theorem slot_channel (c : Nat) {t : Nat} (ht : t < 64) : (64 * c + t) / Config.tilesPerChannel = c := by
  show (64 * c + t) / 64 = c
  omega

theorem slot_tile (c : Nat) {t : Nat} (ht : t < 64) : (64 * c + t) % Config.tilesPerChannel = t := by
  show (64 * c + t) % 64 = t
  omega

theorem State.slotTile_pair (s : State) (c : Nat) {t : Nat} (ht : t < 64) : s.slotTile (64 * c + t) = (s.chan c).tile t := by
  rw [State.slotTile, slot_channel c ht, slot_tile c ht]

/-! ### Where the engine stands after a visit (R102, R116) -/

section
variable {s : State} {r : TakeRecord} {rest : List TakeRecord} {at_ : Fanout} {e : Entry} {v : Value}

theorem State.advance_stays (queue : s.gather.takeQueue = r :: rest) (item : r.changes[at_.item]? = some (e, v))
    (more : s.nextVisit e at_.position ≠ none) : s.advance at_ = { s with fanout := some at_ } := by
  simp only [State.advance, queue, item, Option.isSome_iff_ne_none, if_pos more]

theorem State.advance_item (queue : s.gather.takeQueue = r :: rest) (item : r.changes[at_.item]? = some (e, v))
    (last : s.nextVisit e at_.position = none) {i : Nat}
    (next : s.firstItem (r.changes.drop (at_.item + 1)) (at_.item + 1) = some i) :
    s.advance at_ = { s with fanout := some { item := i, position := none } } := by
  simp [State.advance, queue, item, last, next]

theorem State.advance_record (queue : s.gather.takeQueue = r :: rest) (item : r.changes[at_.item]? = some (e, v))
    (last : s.nextVisit e at_.position = none) (done : s.NoVisit (r.changes.drop (at_.item + 1))) :
    s.advance at_ = s.setEngine (s.takeUp rest) := by
  simp [State.advance, queue, item, last, State.firstItem_eq_none done]

theorem State.advance_movesOn (queue : s.gather.takeQueue = r :: rest) (item : r.changes[at_.item]? = some (e, v))
    (last : s.nextVisit e at_.position = none) : s.MovesOn (s.advance at_) r rest at_.item := by
  have chans : (s.advance at_).chans = s.chans := (s.advance_only at_).chans (by decide)
  have quiet : (s.advance at_).NoVisit = s.NoVisit := by
    funext l
    rw [State.NoVisit, State.nextVisit_congr chans]
  rw [State.MovesOn, State.nextVisit_congr chans, quiet]
  refine ⟨fun between f w later split idle visit => ?next, fun done =>
    ⟨fun skipped next behind before f w later split skip changes idle visit => ?record, fun none => ?idle⟩⟩
  case next =>
    rw [State.advance_item queue item last (by rw [split]; exact State.firstItem_eq_some idle visit ..)]
    exact ⟨rfl, rfl⟩
  case record =>
    rw [State.advance_record queue item last done, split, State.takeUp_append skip,
      State.takeUp_cons_of_visit changes idle visit]
    exact ⟨rfl, rfl⟩
  case idle =>
    rw [State.advance_record queue item last done, State.takeUp_eq_idle none]
    exact ⟨rfl, rfl⟩

/-- The engine after a visit of slot k that changes channel units alone and leaves the item's slots: at slot k while a later
slot is one of the item's, and otherwise moved on. -/
theorem State.Only.advances {u : State} {k : Nat} (h : s.Only [.chans] u) (visits : u.visits e = s.visits e)
    (queue : s.gather.takeQueue = r :: rest) (item : r.changes[at_.item]? = some (e, v)) :
    ((∃ j, k < j ∧ j < 1024 ∧ s.visits e j = true) →
      (u.advance { at_ with position := some k }).fanout = some { item := at_.item, position := some k } ∧
        (u.advance { at_ with position := some k }).gather = s.gather) ∧
    ((∀ j, k < j → j < 1024 → s.visits e j = false) →
      s.MovesOn (u.advance { at_ with position := some k }) r rest at_.item) := by
  have gather : u.gather = s.gather := h.gather (by decide)
  rw [← gather] at queue
  rw [← visits, ← gather]
  refine ⟨fun ⟨j, after, slot, more⟩ => ?_, fun last => ?_⟩
  · have stays : u.nextVisit e (some k) ≠ none := fun last => by
      simp [State.nextVisit_after_eq_none_iff.mp last j after slot] at more
    rw [State.advance_stays queue (at_ := { at_ with position := some k }) item stays]
    exact ⟨rfl, rfl⟩
  · have moved := State.advance_movesOn queue (at_ := { at_ with position := some k }) item
      (State.nextVisit_after_eq_none_iff.mpr last)
    rwa [State.MovesOn, gather] at moved

end

/-! ### A tile joins its channel's queue (R119, R126, R131) -/

theorem Channel.append_eq (ch : Channel) (t : Nat) (label : Bool) : ch.append t label = { ch with
    queue := queueAfterAppend ch.queue t label
    superseded := if ∃ n ∈ ch.queue, n.tile = t then min (ch.superseded + 1) 65535 else ch.superseded } := by
  by_cases queued : ∃ n ∈ ch.queue, n.tile = t
  · rw [Channel.append, if_pos ((ch.queued_iff t).mpr queued), queueAfterAppend, if_pos queued, if_pos queued]
    rfl
  · rw [Channel.append, if_neg (mt (ch.queued_iff t).mp queued), queueAfterAppend, if_neg queued, if_neg queued]

theorem Channel.canDecide_iff (ch : Channel) :
    ch.canDecide = true ↔ ch.state = .running ∧ ch.hold = false ∧ ¬ ch.NoSlot := by
  simp [Channel.canDecide, Channel.NoSlot, and_assoc, Nat.one_le_iff_ne_zero]

theorem Channel.slotDecision_of_not {ch : Channel} (h : ¬ (ch.state = .running ∧ ch.hold = false ∧ ¬ ch.NoSlot))
    (names : TileState → List Byte) (now : Nat) : ch.slotDecision names now = ch := by
  rw [Channel.slotDecision, if_neg (mt ch.canDecide_iff.mp h)]

theorem State.label_setChan (s : State) (c : Nat) (ch : Channel) : (s.setChan c ch).label = s.label := by
  funext x
  cases x <;> rfl

theorem State.chan_enqueue_onAir {s : State} {c : Nat} (onAir : (s.chan c).OnAir) (t : Nat) (label : Bool) :
    (s.enqueue c t label).chan c = ((s.chan c).append t label).slotDecision s.label s.now := by
  rcases onAir with state | state <;>
    rw [State.enqueue, state, State.decideSlot, State.chan_setChan_same, State.chan_setChan_same, State.label_setChan] <;>
    rfl

theorem State.enqueue_offAir {s : State} {c : Nat} (offAir : ¬ (s.chan c).OnAir) (t : Nat) (label : Bool) :
    s.enqueue c t label = s := by
  rw [Channel.OnAir, not_or] at offAir
  unfold State.enqueue
  split
  · exact absurd ‹_› offAir.1
  · exact absurd ‹_› offAir.2
  all_goals rfl

theorem State.enqueue_appended (s : State) (c t : Nat) (label : Bool) :
    Channel.Appended (s.chan c) ((s.enqueue c t label).chan c) s.label s.now t label := by
  refine ⟨fun notRunning notLost => ?_, ?_⟩
  · rw [State.enqueue_offAir (not_or.mpr ⟨notRunning, notLost⟩)]
  · rintro _ rfl
    rw [← Channel.append_eq]
    have append : ((s.chan c).append t label).state = (s.chan c).state ∧
        ((s.chan c).append t label).hold = (s.chan c).hold ∧
        ((s.chan c).append t label).NoSlot = (s.chan c).NoSlot := by
      rw [Channel.append_eq]
      exact ⟨rfl, rfl, rfl⟩
    obtain ⟨state, hold, noSlot⟩ := append
    refine ⟨fun lost => ?_, fun running held => ?_, fun running _ _ => State.chan_enqueue_onAir (.inl running) ..⟩
    · rw [State.chan_enqueue_onAir (.inr lost), Channel.slotDecision_of_not]
      simp [state, lost]
    · rw [State.chan_enqueue_onAir (.inl running), Channel.slotDecision_of_not]
      rw [hold, noSlot]
      rintro ⟨-, free, slot⟩
      exact held.elim (by simp [free]) slot

theorem State.enqueue_others (s : State) (c t : Nat) (label : Bool) : s.OtherChannels c (s.enqueue c t label) := by
  intro j other
  unfold State.enqueue
  split
  · rw [State.decideSlot, State.chan_setChan_other _ _ other.symm, State.chan_setChan_other _ _ other.symm]
  · rw [State.decideSlot, State.chan_setChan_other _ _ other.symm, State.chan_setChan_other _ _ other.symm]
  all_goals rfl

/-! ### What a visit leaves of the tile records -/

/-- Two channel units agree in what their tiles show: assignment, current state and take number of each. -/
def Channel.Shows (ch x : Channel) : Prop :=
  ∀ j, (x.tile j).assignment = (ch.tile j).assignment ∧ (x.tile j).current = (ch.tile j).current ∧
    (x.tile j).take = (ch.tile j).take

theorem Channel.Shows.refl (ch : Channel) : ch.Shows ch := fun _ => ⟨rfl, rfl, rfl⟩

theorem Channel.Shows.trans {ch x y : Channel} (h : ch.Shows x) (g : x.Shows y) : ch.Shows y := fun j =>
  have ⟨a, b, d⟩ := h j
  have ⟨a', b', d'⟩ := g j
  ⟨a'.trans a, b'.trans b, d'.trans d⟩

/-- Of a tile record a NOTICE moves last-sent alone (R133). -/
theorem Channel.beginNotice_shows (ch : Channel) (names : TileState → List Byte) (now t : Nat) (refresh : Bool) :
    ch.Shows (ch.beginNotice names now t refresh) := by
  intro j
  have tile : (ch.beginNotice names now t refresh).tile j =
      if t = j then { ch.tile t with lastSent := (ch.tile t).current } else ch.tile j := Channel.tile_setTile ..
  rw [tile]
  split
  · subst_vars
    exact ⟨rfl, rfl, rfl⟩
  · exact ⟨rfl, rfl, rfl⟩

theorem Channel.slotDecision_shows (ch : Channel) (names : TileState → List Byte) (now : Nat) :
    ch.Shows (ch.slotDecision names now) :=
  Channel.slotDecision_keeps (P := ch.Shows) names now (fun _ _ _ _ h => h) (fun _ h => h)
    (fun x _ t _ h => h.trans (x.beginNotice_shows names now t true))
    (fun x n _ _ h => h.trans (x.beginNotice_shows names now n.tile false)) ch (.refl ch)

theorem State.enqueue_shows (s : State) (c t : Nat) (label : Bool) (j : Nat) :
    (s.chan j).Shows ((s.enqueue c t label).chan j) := by
  by_cases other : j ≠ c
  · rw [s.enqueue_others c t label j other]
    exact .refl _
  · rw [not_ne_iff.mp other]
    by_cases onAir : (s.chan c).OnAir
    · rw [State.chan_enqueue_onAir onAir]
      refine Channel.Shows.trans ?_ (Channel.slotDecision_shows _ _ _)
      rw [Channel.append_eq]
      exact fun _ => ⟨rfl, rfl, rfl⟩
    · rw [State.enqueue_offAir onAir]
      exact .refl _

theorem State.visits_source_congr {s u : State} (shows : ∀ j, (s.chan j).Shows (u.chan j)) (n : Nat) :
    u.visits (.source n) = s.visits (.source n) := by
  funext k
  obtain ⟨assignment, current, -⟩ := shows (k / 64) (k % 64)
  replace assignment : (u.slotTile k).assignment = (s.slotTile k).assignment := assignment
  replace current : (u.slotTile k).current = (s.slotTile k).current := current
  simp only [State.visits, State.showsSource, assignment, current]

theorem State.visits_crosspoint_congr {s u : State}
    (assignments : ∀ j t, ((u.chan j).tile t).assignment = ((s.chan j).tile t).assignment) (e : Crosspoint) :
    u.visits (.crosspoint e) = s.visits (.crosspoint e) := by
  funext k
  have assignment : (u.slotTile k).assignment = (s.slotTile k).assignment := assignments _ _
  simp only [State.visits, State.watches, assignment]

/-! ### The visits -/

theorem exec_crosspointVisit {s : State} (up : s.up = true) : exec .crosspointVisit s = .next s.crosspointVisit :=
  congrArg Host.Outcome.next (if_pos up)

theorem exec_nameChangeVisit {s : State} (up : s.up = true) : exec .nameChangeVisit s = .next s.nameVisit :=
  congrArg Host.Outcome.next (if_pos up)

theorem State.currentItem_idle {s : State} (idle : s.fanout = none) : s.currentItem = none := by
  rw [State.currentItem, idle]

section
variable {s : State} {at_ : Fanout} {r : TakeRecord} {rest : List TakeRecord} {v : Value} {k : Nat}

theorem State.currentItem_eq {e : Entry} (engine : s.fanout = some at_) (queue : s.gather.takeQueue = r :: rest)
    (item : r.changes[at_.item]? = some (e, v)) : s.currentItem = some (at_, r.number, e, v) := by
  simp only [State.currentItem, engine, queue, item]

theorem State.crosspointVisit_eq {e : Crosspoint} (engine : s.fanout = some at_) (queue : s.gather.takeQueue = r :: rest)
    (item : r.changes[at_.item]? = some (.crosspoint e, v)) (next : s.nextVisit (.crosspoint e) at_.position = some k) :
    s.crosspointVisit = (s.visitCrosspoint r.number v k).advance { at_ with position := some k } := by
  simp only [State.crosspointVisit, State.currentItem_eq engine queue item, next]

theorem State.nameVisit_eq {n : Nat} (engine : s.fanout = some at_) (queue : s.gather.takeQueue = r :: rest)
    (item : r.changes[at_.item]? = some (.source n, v)) (next : s.nextVisit (.source n) at_.position = some k) :
    s.nameVisit = (s.visitName k).advance { at_ with position := some k } := by
  simp only [State.nameVisit, State.currentItem_eq engine queue item, next]

end

theorem State.chan_advance (s : State) (at_ : Fanout) : (s.advance at_).chan = s.chan :=
  funext ((s.advance_only at_).chan (by decide))

theorem State.visitName_pair (s : State) (c : Nat) {t : Nat} (ht : t < 64) :
    s.visitName (64 * c + t) = s.enqueue c t true := by
  rw [State.visitName, slot_channel c ht, slot_tile c ht]

/-- The channel once its tile t has taken a crosspoint change from the record numbered `number` (R117). -/
def Channel.taken (ch : Channel) (t : Nat) (number : BitVec 32) (v : Value) : Channel :=
  ch.setTile t { ch.tile t with current := v.tileState, take := number }

theorem State.visitCrosspoint_older {s : State} {number : BitVec 32} (v : Value) {c t : Nat} (ht : t < 64)
    (older : ((s.chan c).tile t).take.toNat < number.toNat) :
    s.visitCrosspoint number v (64 * c + t) = (s.setChan c ((s.chan c).taken t number v)).enqueue c t false := by
  rw [State.visitCrosspoint, slot_channel c ht, slot_tile c ht]
  exact if_pos older

theorem State.visitCrosspoint_newer {s : State} {number : BitVec 32} (v : Value) {c t : Nat} (ht : t < 64)
    (newer : number.toNat ≤ ((s.chan c).tile t).take.toNat) : s.visitCrosspoint number v (64 * c + t) = s := by
  rw [State.visitCrosspoint, slot_channel c ht, slot_tile c ht]
  exact if_neg (Nat.not_lt.mpr newer)

theorem Channel.taken_tile (ch : Channel) (t : Nat) (number : BitVec 32) (v : Value) (j : Nat) :
    (ch.taken t number v).tile j = if t = j then { ch.tile t with current := v.tileState, take := number } else ch.tile j :=
  Channel.tile_setTile ..

section
variable {s : State} {number : BitVec 32} (v : Value) {c t : Nat} (ht : t < 64)
include ht

/-- A visit of an older tile makes it show the new value, and the tile joins its channel's queue. -/
theorem State.visitCrosspoint_shows (older : ((s.chan c).tile t).take.toNat < number.toNat) :
    ((s.chan c).taken t number v).Shows ((s.visitCrosspoint number v (64 * c + t)).chan c) ∧
      Channel.Appended ((s.chan c).taken t number v) ((s.visitCrosspoint number v (64 * c + t)).chan c) s.label s.now t
        false := by
  rw [State.visitCrosspoint_older v ht older]
  have appended := (s.setChan c ((s.chan c).taken t number v)).enqueue_appended c t false
  have shows := (s.setChan c ((s.chan c).taken t number v)).enqueue_shows c t false c
  rw [State.chan_setChan_same] at appended shows
  rw [State.label_setChan, State.setChan_now] at appended
  exact ⟨shows, appended⟩

theorem State.visitCrosspoint_others : s.OtherChannels c (s.visitCrosspoint number v (64 * c + t)) := by
  intro j other
  rcases Nat.lt_or_ge ((s.chan c).tile t).take.toNat number.toNat with older | newer
  · rw [State.visitCrosspoint_older v ht older]
    exact (State.enqueue_others _ _ _ _ j other).trans (State.chan_setChan_other _ _ other.symm)
  · rw [State.visitCrosspoint_newer v ht newer]

theorem State.visitCrosspoint_assignment (j i : Nat) :
    (((s.visitCrosspoint number v (64 * c + t)).chan j).tile i).assignment = ((s.chan j).tile i).assignment := by
  by_cases other : j ≠ c
  · rw [s.visitCrosspoint_others v ht j other]
  · obtain rfl := not_ne_iff.mp other
    rcases Nat.lt_or_ge ((s.chan j).tile t).take.toNat number.toNat with older | newer
    · obtain ⟨shows, -⟩ := s.visitCrosspoint_shows v ht older
      rw [(shows i).1, Channel.taken_tile]
      split
      · subst_vars
        rfl
      · rfl
    · rw [State.visitCrosspoint_newer v ht newer]

end

/-- Settles O33. -/
theorem crosspointVisit : Obligations.CrosspointVisit := by
  intro s at_ r rest e v c t up engine queue item hc ht position watch first
  have next : s.nextVisit (.crosspoint e) at_.position = some (64 * c + t) := by
    refine State.nextVisit_eq_some_iff.mpr ⟨by omega, position, ?_, fun j before after => ?_⟩
    · rw [← s.slotTile_pair c ht] at watch
      exact decide_eq_true watch
    · exact decide_eq_false (first j before after)
  obtain ⟨more, last⟩ := (s.visitCrosspoint_only r.number v (64 * c + t)).advances (at_ := at_) (k := 64 * c + t)
    (State.visits_crosspoint_congr (s.visitCrosspoint_assignment v ht) e) queue item
  have only := s.crosspointVisit_only
  rw [State.crosspointVisit_eq engine queue item next] at only
  refine ⟨_, (exec_crosspointVisit up).trans (congrArg _ (State.crosspointVisit_eq engine queue item next)),
    fun older => ?older, fun newer => ?newer, ?others, fun ⟨j, after, slot, watches⟩ => ?more, fun none => ?last, only⟩
  case older =>
    rw [State.chan_advance]
    obtain ⟨shows, appended⟩ := s.visitCrosspoint_shows v ht older
    obtain ⟨assignment, current, take⟩ := shows t
    rw [Channel.taken_tile, if_pos rfl] at assignment current take
    refine ⟨assignment.trans watch, take, ?_, ?_, fun j other => ?_, appended⟩
    · rintro x rfl
      exact current
    · rintro rfl
      exact current
    · have shown := shows j
      rwa [Channel.taken_tile, if_neg other.symm] at shown
  case newer =>
    rw [(State.advance_only _ _).chans (by decide), State.visitCrosspoint_newer v ht newer]
  case others =>
    intro j other
    rw [State.chan_advance]
    exact s.visitCrosspoint_others v ht j other
  case more => exact more ⟨j, after, slot, decide_eq_true watches⟩
  case last => exact last fun j after slot => decide_eq_false (none j after slot)

theorem State.showsSource_iff {s : State} {n k : Nat} : s.showsSource n k = true ↔
    (s.slotTile k).assignment.isSome = true ∧ ∃ x, (s.slotTile k).current = .known x ∧ x.source.toNat = n := by
  rw [State.showsSource, Bool.and_eq_true]
  cases (s.slotTile k).current <;> simp

/-- Settles O34. -/
theorem nameVisit : Obligations.NameVisit := by
  refine ⟨?visit, fun s idle => ?idle⟩
  case visit =>
    intro s at_ r rest n v c t x up engine queue item hc ht position assigned current source first
    have next : s.nextVisit (.source n) at_.position = some (64 * c + t) :=
      State.nextVisit_eq_some_iff.mpr ⟨by omega, position,
        State.showsSource_iff.mpr (by rw [s.slotTile_pair c ht]; exact ⟨assigned, x, current, source⟩), first⟩
    have shows := s.enqueue_shows c t true
    have only := s.nameVisit_only
    rw [State.nameVisit_eq engine queue item next, s.visitName_pair c ht] at only
    obtain ⟨more, last⟩ := (s.enqueue_only c t true).advances (at_ := at_) (k := 64 * c + t)
      (State.visits_source_congr shows n) queue item
    refine ⟨_, (exec_nameChangeVisit up).trans (congrArg _ (State.nameVisit_eq engine queue item next)), ?_⟩
    rw [s.visitName_pair c ht, State.OtherChannels, State.chan_advance]
    exact ⟨shows c, s.enqueue_appended c t true, s.enqueue_others c t true, more, last, only⟩
  case idle =>
    have crosspoint : s.crosspointVisit = s := by rw [State.crosspointVisit, State.currentItem_idle idle]
    have name : s.nameVisit = s := by rw [State.nameVisit, State.currentItem_idle idle]
    refine ⟨congrArg Host.Outcome.next ?_, congrArg Host.Outcome.next ?_⟩
    · rw [name, ite_self]
    · rw [crosspoint, ite_self]

end Sys2Proof.Machine
end

section
/-! ASSIGN and UNASSIGN (R112, R113, R115): both replace one tile record of one channel, which then joins its channel's queue;
they differ in the record they put there and in the checks before it. The subscriber index follows from the assignments
(R110). -/

namespace Sys2Proof.Machine

/-! ### A tile record replaced, and its tile in the queue (R113, R115) -/

/-- A tile record that ASSIGN makes watch entry e, with the entry's on-air value v and take number f (R113). -/
def Tile.watching (x : Tile) (e : Crosspoint) (v : Value) (f : BitVec 32) : Tile :=
  { x with assignment := some e, current := v.tileState, take := f }

/-- A tile record that UNASSIGN frees, with take number f (R115). -/
def Tile.freed (x : Tile) (f : BitVec 32) : Tile :=
  { x with assignment := none, current := .unassigned, take := f }

/-- What ASSIGN and UNASSIGN have in common: tile t of channel c takes the record x and is appended to the queue. -/
def State.retile (s : State) (c t : Nat) (x : Tile) : State :=
  (s.setChan c ((s.chan c).setTile t x)).enqueue c t false

theorem State.assignTile_eq_retile (s : State) (c t : Nat) (e : Crosspoint) : s.assignTile c t e =
    s.retile c t (((s.chan c).tile t).watching e (s.onAir (.crosspoint e)) s.frame.count) := rfl

theorem State.unassignTile_eq_retile (s : State) (c t : Nat) :
    s.unassignTile c t = s.retile c t (((s.chan c).tile t).freed s.frame.count) := rfl

theorem State.retile_only (s : State) (c t : Nat) (x : Tile) : s.Only [.chans] (s.retile c t x) :=
  (s.setChan_only ..).trans (State.enqueue_only ..)

theorem State.retile_others (s : State) (c t : Nat) (x : Tile) : s.OtherChannels c (s.retile c t x) := fun j other =>
  (State.enqueue_others _ c t false j other).trans (State.chan_setChan_other _ _ other.symm)

theorem State.retile_appended (s : State) (c t : Nat) (x : Tile) :
    Channel.Appended ((s.chan c).setTile t x) ((s.retile c t x).chan c) s.label s.now t false := by
  have appended := (s.setChan c ((s.chan c).setTile t x)).enqueue_appended c t false
  rwa [State.chan_setChan_same, State.label_setChan, State.setChan_now] at appended

/-- The slot decision moves no record's assignment, current state or take number, so the channel shows what was put there. -/
theorem State.retile_shows (s : State) (c t : Nat) (x : Tile) :
    ((s.chan c).setTile t x).Shows ((s.retile c t x).chan c) := by
  have shows := (s.setChan c ((s.chan c).setTile t x)).enqueue_shows c t false c
  rwa [State.chan_setChan_same] at shows

theorem State.retile_own (s : State) (c t : Nat) (x : Tile) :
    (((s.retile c t x).chan c).tile t).assignment = x.assignment ∧
      (((s.retile c t x).chan c).tile t).current = x.current ∧ (((s.retile c t x).chan c).tile t).take = x.take := by
  have own := s.retile_shows c t x t
  rwa [Channel.tile_setTile_same] at own

theorem State.retile_otherTile (s : State) (c t : Nat) (x : Tile) {j : Nat} (other : j ≠ t) :
    (((s.retile c t x).chan c).tile j).assignment = ((s.chan c).tile j).assignment ∧
      (((s.retile c t x).chan c).tile j).current = ((s.chan c).tile j).current ∧
      (((s.retile c t x).chan c).tile j).take = ((s.chan c).tile j).take := by
  have shown := s.retile_shows c t x j
  rwa [Channel.tile_setTile, if_neg other.symm] at shown

/-- `u` came from `s` by a command with this reply whose effect is that tile t of channel c took the record x and was appended
to the queue. -/
structure State.Retiled (s : State) (c t : Nat) (x : Tile) (received reply : List Byte) (u : State) : Prop where
  mgmt : u.mgmt = (s.replied received reply).mgmt
  own : ((u.chan c).tile t).assignment = x.assignment ∧ ((u.chan c).tile t).current = x.current ∧
    ((u.chan c).tile t).take = x.take
  otherTile : ∀ j, j ≠ t → ((u.chan c).tile j).assignment = ((s.chan c).tile j).assignment ∧
    ((u.chan c).tile j).current = ((s.chan c).tile j).current ∧ ((u.chan c).tile j).take = ((s.chan c).tile j).take
  appended : Channel.Appended ((s.chan c).setTile t x) (u.chan c) s.label s.now t false
  others : s.OtherChannels c u
  only : s.Only [.chans, .mgmt] u

theorem State.chan_replied (s : State) (received reply : List Byte) : (s.replied received reply).chan = s.chan := rfl

theorem State.retile_replied (s : State) (c t : Nat) (x : Tile) (received reply : List Byte) :
    s.Retiled c t x received reply ((s.retile c t x).replied received reply) where
  mgmt := by rw [State.replied, (s.retile_only c t x).mgmt (by decide), State.replied]
  own := by
    rw [State.chan_replied]
    exact s.retile_own c t x
  otherTile := by
    rw [State.chan_replied]
    exact fun _ other => s.retile_otherTile c t x other
  appended := by
    rw [State.chan_replied]
    exact s.retile_appended c t x
  others := by
    rw [State.OtherChannels, State.chan_replied]
    exact s.retile_others c t x
  only := ((s.retile_only c t x).mono (by decide)).trans ((State.setMgmt_only _ _).mono (by decide))

/-! ### The subscriber index (R110) -/

theorem State.mem_subscribers_pair {s : State} {c t : Nat} (hc : c ≤ 15) (ht : t < 64) (e : Crosspoint) :
    64 * c + t ∈ s.subscribers e ↔ ((s.chan c).tile t).assignment = some e := by
  have inRange : 64 * c + t < slotCount := by
    show 64 * c + t < 1024
    omega
  rw [State.subscribers, List.mem_filter, List.mem_range, State.watches, decide_eq_true_iff, s.slotTile_pair c ht,
    and_iff_right inRange]

/-- A slot is in the list of the entry its new record watches, and in no other. -/
theorem State.Retiled.mem_subscribers {s u : State} {c t : Nat} {x : Tile} {received reply : List Byte}
    (h : s.Retiled c t x received reply u) (hc : c ≤ 15) (ht : t < 64) (e : Crosspoint) :
    64 * c + t ∈ u.subscribers e ↔ x.assignment = some e := by
  obtain ⟨assignment, -, -⟩ := h.own
  rw [State.mem_subscribers_pair hc ht, assignment]

/-! ### ASSIGN awaited (R112, R113) -/

section
variable {s : State} {chan tile level : Byte} {dest : BitVec 16}

theorem State.assignOutOfRange_iff : s.assignOutOfRange chan tile level dest = true ↔
    15 < chan.toNat ∨ (s.chan chan.toNat).tc ≤ tile.toNat ∨ Straps.levels s.straps ≤ level.toNat ∨
      Straps.dests s.straps ≤ dest.toNat := decide_eq_true_iff

theorem State.runAssign_range (out : s.assignOutOfRange chan tile level dest = true) :
    s.runAssign chan tile level dest = (s, [statusRange]) := if_pos out

theorem State.runAssign_halted (out : ¬ s.assignOutOfRange chan tile level dest = true) (halted : s.device = .halted) :
    s.runAssign chan tile level dest = (s, [statusState]) := (if_neg out).trans (if_pos halted)

theorem State.runAssign_done (out : ¬ s.assignOutOfRange chan tile level dest = true) (halted : s.device ≠ .halted) :
    s.runAssign chan tile level dest =
      (s.assignTile chan.toNat tile.toNat { level := level.toNat, dest := dest.toNat }, [statusDone]) :=
  (if_neg out).trans (if_neg halted)

/-- ASSIGN at its last byte: what its checks and its effect leave, with the answer standing to be shifted out. -/
theorem exec_assign_awaits (h : s.Awaits ([0x20, chan, tile, level] ++ bytes2 dest)) {t : State} {reply : List Byte}
    (answer : s.runAssign chan tile level dest = (t, reply)) :
    exec (.assign chan tile level dest) s = .next (t.replied ([0x20, chan, tile, level] ++ bytes2 dest) reply) :=
  congrArg Host.Outcome.next ((State.command_awaits h _).trans (by rw [answer]))

theorem exec_assign_retiles (h : s.Awaits ([0x20, chan, tile, level] ++ bytes2 dest))
    (fits : ¬ s.assignOutOfRange chan tile level dest = true) (halted : s.device ≠ .halted) :
    ∃ u, exec (.assign chan tile level dest) s = .next u ∧
      s.Retiled chan.toNat tile.toNat (((s.chan chan.toNat).tile tile.toNat).watching
          { level := level.toNat, dest := dest.toNat }
          (s.onAir (.crosspoint { level := level.toNat, dest := dest.toNat })) s.frame.count)
        ([0x20, chan, tile, level] ++ bytes2 dest) [statusDone] u := by
  have done := exec_assign_awaits h (State.runAssign_done fits halted)
  rw [State.assignTile_eq_retile] at done
  exact ⟨_, done, s.retile_replied ..⟩

/-! ### UNASSIGN awaited (R115) -/

theorem State.runUnassign_range (out : 15 < chan.toNat ∨ (s.chan chan.toNat).tc ≤ tile.toNat) :
    s.runUnassign chan tile = (s, [statusRange]) := if_pos out

theorem State.runUnassign_unassigned (out : ¬ (15 < chan.toNat ∨ (s.chan chan.toNat).tc ≤ tile.toNat))
    (unassigned : ((s.chan chan.toNat).tile tile.toNat).assignment = none) :
    s.runUnassign chan tile = (s, [statusState]) := (if_neg out).trans (if_pos unassigned)

theorem State.runUnassign_done (out : ¬ (15 < chan.toNat ∨ (s.chan chan.toNat).tc ≤ tile.toNat))
    (assigned : ((s.chan chan.toNat).tile tile.toNat).assignment ≠ none) :
    s.runUnassign chan tile = (s.unassignTile chan.toNat tile.toNat, [statusDone]) :=
  (if_neg out).trans (if_neg assigned)

/-- UNASSIGN at its last byte: what its checks and its effect leave, with the answer standing to be shifted out. -/
theorem exec_unassign_awaits (h : s.Awaits [0x21, chan, tile]) {t : State} {reply : List Byte}
    (answer : s.runUnassign chan tile = (t, reply)) :
    exec (.unassign chan tile) s = .next (t.replied [0x21, chan, tile] reply) :=
  congrArg Host.Outcome.next ((State.command_awaits h _).trans (by rw [answer]))

theorem exec_unassign_retiles (h : s.Awaits [0x21, chan, tile])
    (fits : ¬ (15 < chan.toNat ∨ (s.chan chan.toNat).tc ≤ tile.toNat))
    (assigned : ((s.chan chan.toNat).tile tile.toNat).assignment ≠ none) :
    ∃ u, exec (.unassign chan tile) s = .next u ∧
      s.Retiled chan.toNat tile.toNat (((s.chan chan.toNat).tile tile.toNat).freed s.frame.count) [0x21, chan, tile]
        [statusDone] u := by
  have done := exec_unassign_awaits h (State.runUnassign_done fits assigned)
  rw [State.unassignTile_eq_retile] at done
  exact ⟨_, done, s.retile_replied ..⟩

end

/-- Settles O47. -/
theorem assignTakesOnAirValue : Obligations.AssignTakesOnAirValue := by
  rintro chan tile level dest s _ awaits rfl
  refine ⟨fun out => ?range, fun hc tileFits levelFits destFits => ?inRange⟩
  case range => exact exec_assign_awaits awaits (State.runAssign_range (State.assignOutOfRange_iff.mpr out))
  case inRange =>
    have fits : ¬ s.assignOutOfRange chan tile level dest = true := by
      rw [State.assignOutOfRange_iff]
      omega
    refine ⟨fun halted => exec_assign_awaits awaits (State.runAssign_halted fits halted), fun halted => ?done⟩
    rintro e mid rfl rfl
    obtain ⟨u, done, retiled⟩ := exec_assign_retiles awaits fits halted
    obtain ⟨assignment, current, take⟩ := retiled.own
    refine ⟨u, done, retiled.mgmt, assignment, ?current, take, fun ht f => ?index, retiled.otherTile, retiled.appended,
      retiled.others, retiled.only⟩
    case current =>
      rw [Channel.tile_setTile_same]
      exact current
    case index => exact (retiled.mem_subscribers hc ht f).trans (Option.some_inj.trans eq_comm)

/-- Settles O48. -/
theorem unassignFreesTheSlot : Obligations.UnassignFreesTheSlot := by
  intro chan tile s awaits
  refine ⟨fun out => exec_unassign_awaits awaits (State.runUnassign_range out), fun hc tileFits => ?inRange⟩
  have fits : ¬ (15 < chan.toNat ∨ (s.chan chan.toNat).tc ≤ tile.toNat) := by omega
  refine ⟨fun unassigned => exec_unassign_awaits awaits (State.runUnassign_unassigned fits unassigned),
    fun e assigned => ?done⟩
  rintro mid rfl
  obtain ⟨u, done, retiled⟩ := exec_unassign_retiles awaits fits (by simp [assigned])
  obtain ⟨assignment, current, take⟩ := retiled.own
  refine ⟨u, done, retiled.mgmt, assignment, current, take, fun ht f listed => ?index, retiled.otherTile, retiled.appended,
    retiled.others, retiled.only⟩
  case index => exact Option.some_ne_none f ((retiled.mem_subscribers hc ht f).mp listed).symm

end Sys2Proof.Machine
end

section
/-! What a valid STATUS can make of a channel unit (R157, R159, R162, R163, R165), said once by the channel's state, and the
principle by which a condition on channels that every action keeps is kept by every step. -/

namespace Sys2Proof.Machine

/-! ### A valid STATUS by the channel's state -/

section
variable {ch : Channel} {halted : Bool} {now : Nat} {r : StatusRecord}

/-- The channel with a valid STATUS recorded (R157). -/
def Channel.noted (ch : Channel) (r : StatusRecord) : Channel :=
  { ch with statusCount := bump ch.statusCount, lastStatus := some r }

/-- The channel with a valid STATUS recorded and its link items taken up in RUNNING (R163). -/
def Channel.linked (ch : Channel) (r : StatusRecord) : Channel :=
  { ch.noted r with
    heard := true
    missing := 0
    hold := r.hold
    heldFrames := if ch.hold && r.hold then ch.heldFrames else 0 }

/-- The channel taken from LISTENING to STARTING by a valid STATUS (R159). -/
def Channel.awakened (ch : Channel) (r : StatusRecord) : Channel :=
  { ch.noted r with state := .starting, helloCount := 0, startedAt := none }

theorem Channel.onStatus_stopped (state : ch.state = .stopped) : ch.onStatus halted now r = (ch.noted r, [], false) := by
  cases ch
  cases state
  rfl

theorem Channel.onStatus_listening (state : ch.state = .listening) :
    ch.onStatus halted now r = (if halted then ch.noted r else ch.awakened r, [], false) := by
  cases ch
  cases state
  rfl

/-- A STATUS together with the START CHANNELS of a LISTENING channel leaves it STARTING (log entry 25). -/
theorem Channel.onStatus_together (state : ch.state = .starting) (together : ch.startedAt = some now) :
    ch.onStatus halted now r = (ch.noted r, [], false) := by
  cases ch
  cases state
  exact if_pos together

theorem Channel.onStatus_returns (state : ch.state = .starting ∧ ch.startedAt ≠ some now ∨ ch.state = .lost) :
    ch.onStatus halted now r = ((ch.noted r).enterRunning r, [], true) := by
  cases ch
  obtain ⟨starting, apart⟩ | lost := state
  · cases starting
    exact if_neg apart
  · cases lost
    rfl

theorem Channel.onStatus_running (state : ch.state = .running) : ch.onStatus halted now r =
    (((ch.linked r).compare r).1, ((ch.linked r).compare r).2.1, ((ch.linked r).compare r).2.2 || (ch.hold && !r.hold)) := by
  cases ch
  cases state
  rfl

theorem Channel.onStatus_compared (state : ch.state = .running) {x : Channel} {faults : List FaultKind} {forced : Bool}
    (compared : (ch.linked r).compare r = (x, faults, forced)) :
    ch.onStatus halted now r = (x, faults, forced || (ch.hold && !r.hold)) := by
  rw [Channel.onStatus_running state, compared]

/-- A valid STATUS records itself, starts a LISTENING channel, returns one to RUNNING, or updates a RUNNING one and compares
its digest. -/
theorem Channel.onStatus_keeps {P : Channel → Prop} (noted : P (ch.noted r))
    (awakened : ch.state = .listening → halted = false → P (ch.awakened r))
    (returned : P ((ch.noted r).enterRunning r))
    (compared : ch.state = .running → ∀ stale m forced cursor, m = ch.mismatch ∨ m ≤ 1 →
      P { ch.linked r with staleCount := stale, mismatch := m, forced := forced, cursor := cursor }) :
    P (ch.onStatus halted now r).1 := by
  cases state : ch.state with
  | stopped => rwa [Channel.onStatus_stopped state]
  | listening =>
    rw [Channel.onStatus_listening state]
    cases halted with
    | true => exact noted
    | false => exact awakened state rfl
  | starting =>
    by_cases together : ch.startedAt = some now
    · rwa [Channel.onStatus_together state together]
    · rwa [Channel.onStatus_returns (.inl ⟨state, together⟩)]
  | running =>
    obtain ⟨stale, m, forced, cursor, result, range⟩ := (ch.linked r).compare_spec r
    rw [Channel.onStatus_running state, result]
    exact compared state stale m forced cursor range
  | lost => rwa [Channel.onStatus_returns (.inr state)]

end

/-! ### Every step at every channel -/

/-- A condition on channels that every action on a channel keeps is kept by every step at every channel. -/
theorem step_each {B : Nat → Prop} {P : Bool → Channel → Prop} (k : Channel.Kept B P) {s t : State} (hs : step s = .next t)
    (e : s.Each P) : t.Each P :=
  step_keeps (P := State.Each P) (fun _ _ _ hx => exec_each k hx)
    (fun s p => (s.takePresented_only p).each (by decide) (by decide)) (fun _ _ h => h.each (by decide) (by decide)) hs e

end Sys2Proof.Machine
end

section
/-! The digest of a channel with its notice queue (R126, R146): a NOTICE moves the digest as it moves the last-sent state of
its tile, an append keeps the queue free of repeats, and no other action on a channel moves either. -/

namespace Sys2Proof.Machine

/-! ### What a condition of the digest reads -/

/-- The digest's condition speaks of Tc, the notice queue, the digest and the last-sent states alone. -/
theorem Channel.DigestSound.congr {ch x : Channel} (h : ch.DigestSound) (tc : x.tc = ch.tc) (queue : x.queue = ch.queue)
    (digest : x.digest = ch.digest) (sent : ∀ j, (x.tile j).lastSent = (ch.tile j).lastSent) : x.DigestSound := by
  unfold Channel.DigestSound
  rw [tc, queue, digest, x.digestSum_congr ch sent]
  exact h

/-! ### NOTICEs, appends and the stop effects -/

/-- A NOTICE for a tile of the channel moves the digest with the tile's last-sent state (R133, R146). -/
theorem Channel.DigestSound.beginNotice {ch : Channel} (h : ch.DigestSound) (names : TileState → List Byte) (now : Nat)
    {t : Nat} (ht : t < Config.tilesPerChannel) (refresh : Bool) : (ch.beginNotice names now t refresh).DigestSound := by
  obtain ⟨tc, tiles, distinct, digest⟩ := h
  exact ⟨tc, tiles, distinct, ch.digestSum_setTile t { ch.tile t with lastSent := (ch.tile t).current } ht digest⟩

/-- A shorter queue of the same channel is as sound (R126). -/
theorem Channel.DigestSound.dropHead {ch : Channel} (h : ch.DigestSound) {n : Notice} {rest : List Notice}
    (queue : ch.queue = n :: rest) : ({ ch with queue := rest } : Channel).DigestSound := by
  obtain ⟨tc, tiles, distinct, digest⟩ := h
  rw [queue] at tiles distinct
  exact ⟨tc, (List.forall_mem_cons.mp tiles).2, (List.nodup_cons.mp distinct).2, digest⟩

theorem Channel.DigestSound.slotDecision {ch : Channel} (h : ch.DigestSound) (names : TileState → List Byte) (now : Nat) :
    (ch.slotDecision names now).DigestSound :=
  Channel.slotDecision_keeps (P := Channel.DigestSound) names now
    (drop := fun _ _ _ queue h => h.dropHead queue)
    (complete := fun _ h => h)
    (refresh := fun _ _ _ target h =>
      have ⟨below, _⟩ := Channel.refreshTarget_spec target
      h.beginNotice names now (Nat.lt_of_lt_of_le below h.1) true)
    (change := fun x n _ queue h =>
      have ⟨_, tiles, _⟩ := h
      have sent := h.beginNotice names now (tiles n (queue ▸ List.mem_cons_self)) false
      sent.dropHead (ch := x.beginNotice names now n.tile false) queue)
    ch h

theorem markLabel_tiles (q : List Notice) (t : Nat) (label : Bool) :
    (markLabel q t label).map Notice.tile = q.map Notice.tile := by
  rw [markLabel, List.map_map]
  refine List.map_congr_left fun n _ => ?_
  rw [Function.comp_apply]
  split <;> rfl

/-- An append of a tile of the channel keeps the queue free of repeats: a tile that is queued keeps its place (R126). -/
theorem Channel.DigestSound.append {ch : Channel} (h : ch.DigestSound) {t : Nat} (ht : t < Config.tilesPerChannel)
    (label : Bool) : (ch.append t label).DigestSound := by
  obtain ⟨tc, tiles, distinct, digest⟩ := h
  have inChannel : ∀ q : List Notice, (∀ k ∈ q.map Notice.tile, k < Config.tilesPerChannel) →
      ∀ n ∈ q, n.tile < Config.tilesPerChannel := fun q hq n hn => hq _ (List.mem_map_of_mem hn)
  unfold Channel.append
  split
  case isTrue =>
    refine ⟨tc, inChannel _ ?_, ?_, digest⟩
    · rw [markLabel_tiles]
      exact List.forall_mem_map.mpr tiles
    · rwa [markLabel_tiles]
  case isFalse fresh =>
    have unqueued : t ∉ ch.queue.map Notice.tile := fun mem => by
      obtain ⟨n, hn, same⟩ := List.mem_map.mp mem
      exact fresh ((ch.queued_iff t).mpr ⟨n, hn, same⟩)
    refine ⟨tc, ?_, ?_, digest⟩
    · exact List.forall_mem_append.mpr ⟨tiles, by simpa using ht⟩
    · rw [List.map_append]
      exact distinct.append (List.nodup_singleton _) (by simpa using unqueued)

/-- The stop effects empty the queue and make every last-sent state unassigned, so the sum is 0 (R137, R139). -/
theorem Channel.stopEffects_digestSound {ch : Channel} (tc : ch.tc ≤ Config.tilesPerChannel) :
    ch.stopEffects.DigestSound := by
  refine ⟨tc, by simp [Channel.stopEffects], List.nodup_nil, (Channel.digestSum_unassigned _ fun t => ?_).symm⟩
  rw [Channel.stopEffects_tile]
  split <;> rfl

/-! ### Every action on a channel, and every step -/

theorem Channel.digestSound_kept :
    Channel.Kept (fun t => t < Config.tilesPerChannel) (fun _ ch => ch.DigestSound) where
  slot _ ht := ht
  assigned _ _ _ h ht := Nat.lt_of_lt_of_le ht h.1
  reset :=
    have ⟨_, sound, _⟩ := Channel.reset_sound
    sound
  stop _ _ _ h := Channel.stopEffects_digestSound h.1
  decide _ _ names now h := h.slotDecision names now
  append _ _ _ label ht _ h := h.append ht label
  tile _ ch t x sent h := h.congr rfl rfl rfl fun j => by
    rw [Channel.tile_setTile]
    split
    · subst_vars
      exact sent
    · rfl
  account _ ch _ h := by
    unfold Channel.account
    split <;> exact h
  tick _ ch _ h := by
    unfold Channel.countTick
    split
    · split <;> exact h
    · exact h
  pendFrame _ _ _ _ h := h
  helloCount _ _ _ _ h := h
  pendHello _ _ h := h
  frame _ _ _ _ _ h := h
  hello _ _ _ _ h := h
  free _ _ h := h
  receiver _ _ _ _ _ h := h
  status _ _ _ _ h := Channel.onStatus_keeps h (fun _ _ => h) h fun _ _ _ _ _ _ => h
  start ch now h := by
    unfold Channel.start
    split <;> exact h
  tc _ _ _ hv h := ⟨hv, h.2⟩
  budget _ _ _ _ h := h
  interval _ _ _ h := h
  options _ ch v b h := by
    obtain ⟨st, ti, rx, er, wire, hv, -⟩ := ch.setOptions_spec v b
    rw [hv]
    exact h
  soft _ _ _ h := Channel.stopEffects_digestSound h.1

/-- Settles O57: every action on a channel keeps the condition, and a step is made of such actions. -/
theorem digestStaysTheSum : Obligations.DigestStaysTheSum := fun _ _ sound hs =>
  step_each Channel.digestSound_kept hs sound

end Sys2Proof.Machine
end

section
/-! The conditions of a channel unit that every step keeps (R137, R139, R147, R158, R160, R164, R167): it rests in HALTED, its
counts stay in range, and off the air it is quiet. -/

namespace Sys2Proof.Machine

/-! ### States of a channel -/

theorem Channel.stopEffects_resting (ch : Channel) : ch.stopEffects.Resting := by
  show ch.restState = .stopped ∨ ch.restState = .listening
  unfold Channel.restState
  split
  · exact .inr rfl
  · exact .inl rfl

theorem Channel.OnAir.not_resting {ch : Channel} (h : ch.OnAir) : ¬ ch.Resting := by
  rintro (rest | rest) <;> simp [Channel.OnAir, rest] at h

theorem Channel.OnAir.quiet {ch : Channel} (h : ch.OnAir) : ch.QuietOffAir := fun notRunning notLost =>
  absurd h (not_or.mpr ⟨notRunning, notLost⟩)

theorem Channel.append_state (ch : Channel) (t : Nat) (label : Bool) : (ch.append t label).state = ch.state := by
  rw [Channel.append_eq]

/-! ### In HALTED every channel rests (R167) -/

/-- In HALTED a channel rests. -/
def Channel.RestsIfHalted (halted : Bool) (ch : Channel) : Prop := halted = true → ch.Resting

theorem Channel.RestsIfHalted.of_state {halted : Bool} {ch x : Channel} (h : ch.RestsIfHalted halted)
    (state : x.state = ch.state) : x.RestsIfHalted halted := by
  unfold Channel.RestsIfHalted Channel.Resting
  rw [state]
  exact h

/-- An action on the air is no action of HALTED. -/
theorem Channel.RestsIfHalted.of_onAir {halted : Bool} {ch x : Channel} (h : ch.RestsIfHalted halted) (onAir : ch.OnAir) :
    x.RestsIfHalted halted := fun hh => absurd (h hh) onAir.not_resting

theorem Channel.restsIfHalted_kept : Channel.Kept (fun _ => True) Channel.RestsIfHalted where
  slot _ _ := trivial
  assigned _ _ _ _ _ := trivial
  reset := nofun
  stop _ _ ch _ _ := ch.stopEffects_resting
  decide _ ch names now h :=
    have ⟨state, _⟩ := ch.slotDecision_link names now
    h.of_state state
  append _ ch t label _ _ h := h.of_state (ch.append_state t label)
  tile _ _ _ _ _ h := h
  account _ _ running h := h.of_onAir (.inl running)
  tick _ _ onAir h := h.of_onAir onAir
  pendFrame _ _ _ _ h := h
  helloCount _ _ _ _ h := h
  pendHello _ _ h := h
  frame _ _ _ _ _ h := h
  hello _ _ _ _ h := h
  free _ _ h := h
  receiver _ _ _ _ _ h := h
  status halted ch now r h := by
    rintro rfl
    obtain state | state := h rfl
    · rw [Channel.onStatus_stopped state]
      exact .inl state
    · rw [Channel.onStatus_listening state]
      exact .inr state
  start _ _ _ := nofun
  tc _ _ _ _ h := h
  budget _ _ _ _ h := h
  interval _ _ _ h := h
  options _ ch v b h hh := by
    obtain ⟨st, ti, rx, er, wire, stored, same | ⟨-, rests⟩⟩ := ch.setOptions_spec v b
    · rw [stored, same]
      exact h hh
    · rw [stored]
      exact rests
  soft _ _ _ _ _ := Channel.stopEffects_resting _

theorem State.haltedRests_iff {s : State} : s.HaltedRests ↔ s.Each Channel.RestsIfHalted := by
  simp only [State.HaltedRests, State.Each, Channel.RestsIfHalted, State.isHalted, beq_iff_eq]
  exact ⟨fun h c hc halted => h halted c hc, fun h halted c hc => h c hc halted⟩

/-! ### Counts in their ranges (R139, R140, R147, R158, R164) -/

theorem Channel.CountsInRange.countTick {ch : Channel} (h : ch.CountsInRange) : ch.countTick.1.CountsInRange := by
  obtain ⟨low, high, link⟩ := h
  unfold Channel.countTick
  split
  case isTrue =>
    split
    case isTrue below => exact ⟨Int.le_add_one low, below, link⟩
    case isFalse => exact ⟨low, high, link⟩
  case isFalse => exact ⟨low, high, link⟩

/-- The accounting brings the missing count to four only by leaving RUNNING (R164). -/
theorem Channel.CountsInRange.account {ch : Channel} (h : ch.CountsInRange) (running : ch.state = .running) :
    ch.account.1.CountsInRange := by
  obtain ⟨low, high, mismatch, snapshots, hello, missing, held, heard⟩ := h
  have few := heard running
  unfold Channel.account
  split
  case isTrue => exact ⟨low, high, mismatch, snapshots, hello, Nat.le_refl _, Nat.zero_le _, nofun⟩
  case isFalse present =>
    have stays : (if ch.heard then ch.missing else ch.missing + 1) < Config.missingMax := by
      split
      · exact few
      · simp_all [Channel.lostDue]
    refine ⟨low, high, mismatch, snapshots, hello, Nat.le_of_lt stays, ?_, fun _ => stays⟩
    show (if ch.hold then min (ch.heldFrames + 1) Config.heldMax else ch.heldFrames) ≤ Config.heldMax
    split
    · exact Nat.min_le_right ..
    · exact held

theorem Channel.CountsInRange.completeRefresh {ch : Channel} (h : ch.CountsInRange) : ch.completeRefresh.CountsInRange := by
  obtain ⟨low, high, link⟩ := h
  have range : -8 ≤ ch.completeRefresh.debt ∧ ch.completeRefresh.debt ≤ 8 := by
    show -8 ≤ (if -8 < ch.debt then ch.debt - 1 else ch.debt) ∧ (if -8 < ch.debt then ch.debt - 1 else ch.debt) ≤ 8
    split <;> omega
  exact ⟨range.1, range.2, link⟩

theorem Channel.CountsInRange.slotDecision {ch : Channel} (h : ch.CountsInRange) (names : TileState → List Byte) (now : Nat) :
    (ch.slotDecision names now).CountsInRange :=
  Channel.slotDecision_keeps (P := Channel.CountsInRange) names now (drop := fun _ _ _ _ h => h)
    (complete := fun _ h => h.completeRefresh) (refresh := fun _ _ _ _ h => h) (change := fun _ _ _ _ h => h) ch h

theorem Channel.CountsInRange.beginFrame {ch : Channel} (h : ch.CountsInRange) (now : Nat) (tag : BitVec 16) :
    (ch.beginFrame now tag).CountsInRange := by
  obtain ⟨low, high, mismatch, snapshots, link⟩ := h
  exact ⟨low, high, mismatch, pushSnapshot_length _ _ snapshots, link⟩

/-- The stop effects return every count to 0 (R139, R158). -/
theorem Channel.stopEffects_countsInRange (ch : Channel) : ch.stopEffects.CountsInRange :=
  ⟨show (-8 : Int) ≤ 0 by decide, show (0 : Int) ≤ 8 by decide, Nat.zero_le _, Nat.zero_le _, Nat.zero_le _, Nat.zero_le _,
    Nat.zero_le _, fun _ => Nat.succ_pos 3⟩

theorem Channel.CountsInRange.onStatus {ch : Channel} (h : ch.CountsInRange) (halted : Bool) (now : Nat) (r : StatusRecord) :
    (ch.onStatus halted now r).1.CountsInRange := by
  obtain ⟨low, high, mismatch, snapshots, hello, missing, held, heard⟩ := id h
  refine Channel.onStatus_keeps (noted := h) (awakened := fun _ _ => ?awakened) (returned := ?returned)
    (compared := fun _ stale m forced cursor count => ?compared)
  case awakened => exact ⟨low, high, mismatch, snapshots, Nat.zero_le _, missing, held, nofun⟩
  case returned =>
    exact ⟨low, high, mismatch, snapshots, hello, Nat.zero_le _, Nat.zero_le _, fun _ => Nat.succ_pos 3⟩
  case compared =>
    refine ⟨low, high, count.elim (· ▸ mismatch) id, snapshots, hello, Nat.zero_le _, ?_, fun _ => Nat.succ_pos 3⟩
    show (if ch.hold && r.hold then ch.heldFrames else 0) ≤ Config.heldMax
    split
    · exact held
    · exact Nat.zero_le _

theorem Channel.countsInRange_kept : Channel.Kept (fun _ => True) (fun _ ch => ch.CountsInRange) where
  slot _ _ := trivial
  assigned _ _ _ _ _ := trivial
  reset :=
    have ⟨_, _, counts, _⟩ := Channel.reset_sound
    counts
  stop _ _ ch _ := ch.stopEffects_countsInRange
  decide _ _ names now h := h.slotDecision names now
  append _ ch t label _ _ h := by
    rw [Channel.append_eq]
    exact h
  tile _ _ _ _ _ h := h
  account _ _ running h := h.account running
  tick _ _ _ h := h.countTick
  pendFrame _ _ _ _ h := h
  helloCount _ _ _ below h :=
    have ⟨low, high, mismatch, snapshots, _, link⟩ := h
    ⟨low, high, mismatch, snapshots, below, link⟩
  pendHello _ _ h := h
  frame _ _ now tag _ h := h.beginFrame now tag
  hello _ _ _ _ h := h
  free _ _ h := h
  receiver _ _ _ _ _ h := h
  status halted _ now r h := h.onStatus halted now r
  start ch now h := by
    obtain ⟨low, high, mismatch, snapshots, hello, missing, held, heard⟩ := id h
    unfold Channel.start
    split
    case h_1 | h_2 => exact ⟨low, high, mismatch, snapshots, Nat.zero_le _, missing, held, nofun⟩
    all_goals exact h
  tc _ _ _ _ h := h
  budget _ _ _ _ h := h
  interval _ _ _ h := h
  options _ ch v b h := by
    obtain ⟨low, high, mismatch, snapshots, hello, missing, held, heard⟩ := id h
    obtain ⟨st, ti, rx, er, wire, stored, same | ⟨-, rests⟩⟩ := ch.setOptions_spec v b
    · rw [stored, same]
      exact h
    · rw [stored]
      exact ⟨low, high, mismatch, snapshots, hello, missing, held,
        fun running => by rcases rests with rest | rest <;> exact absurd (running.symm.trans rest) (by decide)⟩
  soft _ _ _ _ := Channel.stopEffects_countsInRange _

/-! ### Quiet off the air (R137, R139, R160) -/

theorem Channel.stopEffects_quiet (ch : Channel) : ch.stopEffects.QuietOffAir := fun _ _ =>
  ⟨rfl, rfl, rfl, rfl, rfl, rfl, rfl, rfl, rfl⟩

theorem Channel.QuietOffAir.slotDecision {ch : Channel} (h : ch.QuietOffAir) (names : TileState → List Byte) (now : Nat) :
    (ch.slotDecision names now).QuietOffAir := by
  by_cases running : ch.state = .running
  · have ⟨state, _⟩ := ch.slotDecision_link names now
    exact Channel.OnAir.quiet (.inl (state.trans running))
  · rwa [Channel.slotDecision_of_not (fun decides => running decides.1)]

/-- A FRAME mark begins on the air only: off it none is due, and none is pending (R137). -/
theorem Channel.QuietOffAir.onAir_of_frame {ch : Channel} (h : ch.QuietOffAir) {tag : BitVec 16}
    (marks : ch.OnAir ∨ ch.framePending = some tag) : ch.OnAir := by
  refine marks.elim id fun pending => ?_
  by_contra offAir
  obtain ⟨notRunning, notLost⟩ := not_or.mp offAir
  obtain ⟨-, -, -, -, -, -, -, -, none⟩ := h notRunning notLost
  exact absurd (none.symm.trans pending) nofun

theorem Channel.quietOffAir_kept : Channel.Kept (fun _ => True) (fun _ ch => ch.QuietOffAir) where
  slot _ _ := trivial
  assigned _ _ _ _ _ := trivial
  reset :=
    have ⟨_, _, _, quiet⟩ := Channel.reset_sound
    quiet
  stop _ _ ch _ := ch.stopEffects_quiet
  decide _ _ names now h := h.slotDecision names now
  append _ ch t label _ onAir _ := Channel.OnAir.quiet (by
    unfold Channel.OnAir
    rwa [ch.append_state t label])
  tile _ _ _ _ _ h := h
  account _ _ running _ := (Channel.account_onAir running).quiet
  tick _ _ onAir _ := (Channel.countTick_onAir onAir).quiet
  pendFrame _ _ _ onAir _ := Channel.OnAir.quiet onAir
  helloCount _ _ _ _ h := h
  pendHello _ _ h := h
  frame _ _ _ _ marks h := Channel.OnAir.quiet (h.onAir_of_frame marks)
  hello _ _ _ _ h := h
  free _ _ h := h
  receiver _ _ _ _ _ h := h
  status _ _ _ _ h := Channel.onStatus_keeps (noted := h)
    (awakened := fun listening _ _ _ => h (by simp [listening]) (by simp [listening]))
    (returned := Channel.OnAir.quiet (.inl rfl))
    (compared := fun running _ _ _ _ _ => Channel.OnAir.quiet (.inl running))
  start ch now h := by
    unfold Channel.start
    split
    case h_1 stopped => exact fun _ _ => h (by simp [stopped]) (by simp [stopped])
    case h_2 listening => exact fun _ _ => h (by simp [listening]) (by simp [listening])
    all_goals exact h
  tc _ _ _ _ h := h
  budget _ _ _ _ h := h
  interval _ _ _ h := h
  options _ ch v b h := by
    obtain ⟨st, ti, rx, er, wire, stored, same | ⟨rested, -⟩⟩ := ch.setOptions_spec v b
    · rw [stored, same]
      exact h
    · rw [stored]
      exact fun _ _ => h (fun running => Channel.OnAir.not_resting (.inl running) rested)
        (fun lost => Channel.OnAir.not_resting (.inr lost) rested)
  soft _ _ _ _ := Channel.stopEffects_quiet _

/-- Settles O58: each of the three conditions by its rule for the actions on a channel. -/
theorem channelsStaySound : Obligations.ChannelsStaySound := fun _ _ hs =>
  ⟨fun rests => State.haltedRests_iff.mpr (step_each Channel.restsIfHalted_kept hs (State.haltedRests_iff.mp rests)),
    step_each Channel.countsInRange_kept hs, step_each Channel.quietOffAir_kept hs⟩

end Sys2Proof.Machine
end

section
/-! A channel unit at a switch point (R129, R140, R141, R147, R161, R164): the messages that become due, the STATUS accounting and
the refresh tick, each said by its cases, and their order. -/

namespace Sys2Proof.Machine

/-! ### The messages that become due (R129, R161) -/

theorem Channel.beginFrame_eq_framed (ch : Channel) (now : Nat) (tag : BitVec 16) :
    ch.beginFrame now tag = ch.framed now tag := rfl

theorem Channel.beginHello_eq_helloed (ch : Channel) (c now : Nat) : ch.beginHello c now = ch.helloed c now := rfl

section
variable {ch : Channel}

theorem Channel.frameDue_free (free : ch.tx = none) (now : Nat) (tag : BitVec 16) :
    ch.frameDue now tag = ch.framed now tag := by
  rw [Channel.frameDue, free]
  exact ch.beginFrame_eq_framed now tag

theorem Channel.frameDue_behind (busy : ch.tx ≠ none) (now : Nat) (tag : BitVec 16) :
    ch.frameDue now tag = { ch with framePending := some tag } := by
  obtain ⟨m, message⟩ := Option.ne_none_iff_exists'.mp busy
  rw [Channel.frameDue, message]

theorem Channel.helloDue_free (free : ch.tx = none) (c now : Nat) : ch.helloDue c now = ch.helloed c now := by
  rw [Channel.helloDue, free]
  exact ch.beginHello_eq_helloed c now

theorem Channel.helloDue_behind (busy : ch.tx ≠ none) (c now : Nat) :
    ch.helloDue c now = { ch with helloPending := true } := by
  obtain ⟨m, message⟩ := Option.ne_none_iff_exists'.mp busy
  rw [Channel.helloDue, message]

/-! ### STATUS accounting in RUNNING (R164) -/

theorem Channel.lostDue_iff (running : ch.state = .running) :
    ch.lostDue = true ↔ ch.heard = false ∧ 3 ≤ ch.missing := by
  simp [Channel.lostDue, running, Config.missingMax]

theorem Channel.account_lost (running : ch.state = .running) (unheard : ch.heard = false) (missing : 3 ≤ ch.missing) :
    ch.account = ({ ch with state := .lost, missing := 4, hold := false, heldFrames := 0 }, [.statusLost]) := by
  rw [Channel.account, if_pos ((Channel.lostDue_iff running).mpr ⟨unheard, missing⟩)]
  cases ch
  cases unheard
  rfl

theorem Channel.account_present (running : ch.state = .running) (present : ch.heard = true ∨ ch.missing < 3) :
    ch.account =
      ({ ch with
          missing := if ch.heard = true then ch.missing else ch.missing + 1
          heldFrames := if ch.hold = true then min (ch.heldFrames + 1) 16 else ch.heldFrames
          heard := false },
        if ch.hold = true ∧ ch.heldFrames = 15 then [.endpointStalled] else []) := by
  have kept : ¬ ch.lostDue = true := by
    rw [Channel.lostDue_iff running]
    rintro ⟨unheard, missing⟩
    exact present.elim (by simp [unheard]) (Nat.not_lt.mpr missing)
  have stall : ch.stallDue = true ↔ ch.hold = true ∧ ch.heldFrames = 15 := by
    simp [Channel.stallDue, running, kept, Config.heldMax]
  rw [Channel.account, if_neg kept]
  simp only [stall]
  rfl

/-! ### The refresh tick (R140, R141) -/

theorem Channel.countTick_counting (counting : ch.ticks + 1 < ch.interval) :
    ch.countTick = ({ ch with ticks := ch.ticks + 1 }, []) := if_neg (Nat.not_le.mpr counting)

theorem Channel.countTick_owing (due : ch.interval ≤ ch.ticks + 1) (debt : ch.debt < 7) :
    ch.countTick = ({ ch with ticks := 0, debt := ch.debt + 1 }, []) := by
  have short : decide (ch.debt + 1 = 8) = false := decide_eq_false (by omega)
  rw [Channel.countTick, if_pos due, if_pos (by omega), short, Bool.or_false]

theorem Channel.countTick_forcing (due : ch.interval ≤ ch.ticks + 1) (debt : ch.debt = 7) :
    ch.countTick = ({ ch with ticks := 0, debt := 8, forced := true }, []) := by
  rw [Channel.countTick, if_pos due, debt, if_pos (by decide)]
  simp

theorem Channel.countTick_overrun (due : ch.interval ≤ ch.ticks + 1) (debt : 8 ≤ ch.debt) :
    ch.countTick = ({ ch with ticks := 0 }, [.refreshOverrun]) := by
  rw [Channel.countTick, if_pos due, if_neg (by omega)]

theorem Channel.countTick_tx (ch : Channel) : ch.countTick.1.tx = ch.tx := by
  unfold Channel.countTick
  split
  · split <;> rfl
  · rfl

/-! ### The switch point by the channel's state -/

section
variable {c now : Nat} {tag : BitVec 16}

theorem Channel.switchPoint_resting (rests : ch.Resting) : ch.switchPoint c now tag = (ch, []) := by
  unfold Channel.switchPoint
  obtain stopped | listening := rests
  · rw [stopped]
  · rw [listening]

theorem Channel.switchPoint_hello (starting : ch.state = .starting) (few : ch.helloCount < 8) :
    ch.switchPoint c now tag = (({ ch with helloCount := ch.helloCount + 1 } : Channel).helloDue c now, []) := by
  cases ch
  cases starting
  exact if_pos few

theorem Channel.switchPoint_timeout (starting : ch.state = .starting) (made : 8 ≤ ch.helloCount) :
    ch.switchPoint c now tag = (ch.stopEffects, [.noPartner]) := by
  unfold Channel.switchPoint
  rw [starting]
  exact if_neg (Nat.not_lt.mpr made)

theorem Channel.switchPoint_lost (lost : ch.state = .lost) : ch.switchPoint c now tag = (ch.frameDue now tag, []) := by
  unfold Channel.switchPoint
  rw [lost]

theorem Channel.switchPoint_running (running : ch.state = .running) {counted ticked : Channel}
    {first second : List FaultKind} (accounted : ch.account = (counted, first))
    (made : counted.countTick = (ticked, second)) :
    ch.switchPoint c now tag = (ticked.frameDue now tag, first ++ second) := by
  unfold Channel.switchPoint
  rw [running]
  simp only [accounted, made]

end

/-- Of the channel the refresh tick reads the tick count with its interval, and the debt: the accounting before it moves
neither. -/
theorem Channel.countTick_cases {counted ticked : Channel} {second : List FaultKind} (ticks : counted.ticks = ch.ticks)
    (interval : counted.interval = ch.interval) (debt : counted.debt = ch.debt)
    (counting : ch.ticks + 1 < ch.interval → ticked = { counted with ticks := ch.ticks + 1 } ∧ second = [])
    (tick : ch.interval ≤ ch.ticks + 1 →
      (ch.debt < 7 → ticked = { counted with ticks := 0, debt := ch.debt + 1 } ∧ second = []) ∧
      (ch.debt = 7 → ticked = { counted with ticks := 0, debt := 8, forced := true } ∧ second = []) ∧
      (8 ≤ ch.debt → ticked = { counted with ticks := 0 } ∧ second = [.refreshOverrun])) :
    counted.countTick = (ticked, second) := by
  rw [← ticks, ← interval] at counting tick
  rw [← debt] at tick
  rcases Nat.lt_or_ge (counted.ticks + 1) counted.interval with before | due
  · obtain ⟨rfl, rfl⟩ := counting before
    exact Channel.countTick_counting before
  · obtain ⟨owing, forcing, overrun⟩ := tick due
    rcases Int.lt_trichotomy counted.debt 7 with below | at_seven | above
    · obtain ⟨rfl, rfl⟩ := owing below
      exact Channel.countTick_owing due below
    · obtain ⟨rfl, rfl⟩ := forcing at_seven
      exact Channel.countTick_forcing due at_seven
    · obtain ⟨rfl, rfl⟩ := overrun above
      exact Channel.countTick_overrun due above

end

/-- Settles O35. -/
theorem switchPointAtChannel : Obligations.SwitchPointAtChannel := by
  intro ch c now tag
  refine ⟨Channel.switchPoint_resting, fun starting few => ⟨fun free => ?helloNow, fun busy => ?helloLater⟩,
    Channel.switchPoint_timeout, fun lost => ⟨fun free => ?frameNow, fun busy => ?frameLater⟩,
    fun running counted ticked first second lost present counting tick => ?running⟩
  case helloNow =>
    rw [Channel.switchPoint_hello starting few,
      Channel.helloDue_free (ch := { ch with helloCount := ch.helloCount + 1 }) free]
  case helloLater =>
    rw [Channel.switchPoint_hello starting few,
      Channel.helloDue_behind (ch := { ch with helloCount := ch.helloCount + 1 }) busy]
  case frameNow => rw [Channel.switchPoint_lost lost, Channel.frameDue_free free]
  case frameLater => rw [Channel.switchPoint_lost lost, Channel.frameDue_behind busy]
  case running =>
    have accounted : ch.account = (counted, first) ∧ counted.ticks = ch.ticks ∧ counted.interval = ch.interval ∧
        counted.debt = ch.debt ∧ counted.tx = ch.tx := by
      by_cases lapsed : ch.heard = false ∧ 3 ≤ ch.missing
      · obtain ⟨unheard, missing⟩ := lapsed
        obtain ⟨rfl, rfl⟩ := lost unheard missing
        exact ⟨Channel.account_lost running unheard missing, rfl, rfl, rfl, rfl⟩
      · have heard : ch.heard = true ∨ ch.missing < 3 := by simpa [imp_iff_not_or] using lapsed
        obtain ⟨rfl, rfl⟩ := present heard
        exact ⟨Channel.account_present running heard, rfl, rfl, rfl, rfl⟩
    obtain ⟨account, ticks, interval, debt, line⟩ := accounted
    have made := Channel.countTick_cases ticks interval debt counting tick
    have tx : ticked.tx = ch.tx :=
      calc ticked.tx = counted.countTick.1.tx := by rw [made]
        _ = counted.tx := counted.countTick_tx
        _ = ch.tx := line
    rw [Channel.switchPoint_running running account made]
    refine ⟨fun free => ?_, fun busy => ?_⟩
    · rw [Channel.frameDue_free (tx.trans free)]
    · rw [Channel.frameDue_behind (tx ▸ busy)]

end Sys2Proof.Machine
end

section
/-! The end of a message (R128, R129, R131, R161) and the levels of a transmit line (R153). -/

namespace Sys2Proof.Machine

/-! ### What begins at the end of a message (R128, R129, R131, R161) -/

section
variable {s : State} {c : Nat}

theorem State.messageEnds_frame {tag : BitVec 16} (pending : (s.chan c).framePending = some tag) :
    s.messageEnds c = s.setChan c (({ s.chan c with tx := none } : Channel).framed s.now tag) := by
  simp only [State.messageEnds, pending, Channel.beginFrame_eq_framed]

theorem State.messageEnds_hello (noFrame : (s.chan c).framePending = none) (pending : (s.chan c).helloPending = true) :
    s.messageEnds c = s.setChan c (({ s.chan c with tx := none } : Channel).helloed c s.now) := by
  simp only [State.messageEnds, noFrame, pending, if_true, Channel.beginHello_eq_helloed]

theorem State.messageEnds_decides (noFrame : (s.chan c).framePending = none) (noHello : (s.chan c).helloPending = false) :
    (s.messageEnds c).chan c = ({ s.chan c with tx := none } : Channel).slotDecision s.label s.now := by
  simp only [State.messageEnds, noFrame, noHello]
  simp [State.decideSlot, State.label_setChan]

theorem State.decideSlot_others (s : State) (c : Nat) : s.OtherChannels c (s.decideSlot c) := fun _ other =>
  State.chan_setChan_other _ _ other.symm

theorem State.messageEnds_others (s : State) (c : Nat) : s.OtherChannels c (s.messageEnds c) := by
  have set : ∀ ch, s.OtherChannels c (s.setChan c ch) := fun ch j other => State.chan_setChan_other _ ch other.symm
  unfold State.messageEnds
  dsimp only
  split
  · exact set _
  · split
    · exact set _
    · exact fun j other => (State.decideSlot_others _ c j other).trans (set _ j other)

end

section
variable {s : State} {c : Fin 16} {m : Transmission}

theorem exec_messageEnd_ended (up : s.up = true) (message : (s.chan c).tx = some m) (ended : m.endsAt ≤ s.now) :
    exec (.messageEnd c) s = .next (s.messageEnds c) :=
  congrArg Host.Outcome.next (if_pos (by simp [up, State.messageDue, message, ended]))

theorem exec_messageEnd_early (message : (s.chan c).tx = some m) (early : s.now < m.endsAt) :
    exec (.messageEnd c) s = .next s :=
  congrArg Host.Outcome.next (if_neg (by simp [State.messageDue, message, early]))

end

/-! ### The levels of a transmit line (R153) -/

theorem lineBits_length (b : Byte) : (lineBits b).length = 10 := rfl

/-- Blocks of one length laid end to end, read back. -/
theorem take_drop_flatMap {α β : Type} {f : α → List β} {n : Nat} (block : ∀ a, (f a).length = n) {l : List α} {i : Nat}
    {a : α} (at_i : l[i]? = some a) : ((l.flatMap f).drop (n * i)).take n = f a := by
  induction l generalizing i with
  | nil => simp at at_i
  | cons x l ih =>
    rw [List.flatMap_cons]
    cases i with
    | zero =>
      obtain rfl : x = a := by simpa using at_i
      rw [Nat.mul_zero, List.drop_zero, ← block x, List.take_left]
    | succ i =>
      rw [Nat.mul_succ, Nat.add_comm, ← List.drop_drop, List.drop_left' (block x)]
      exact ih (by simpa using at_i)

theorem length_flatMap_block {α β : Type} {f : α → List β} {n : Nat} (block : ∀ a, (f a).length = n) (l : List α) :
    (l.flatMap f).length = n * l.length := by
  simp [List.length_flatMap, block, Nat.mul_comm]

section
variable {s : State} {c : Nat}

theorem State.txLevels_down (down : s.up = false) : s.txLevels c = [true] := by
  simp [State.txLevels, State.txIdleMark, down]

theorem State.txLevels_idle (free : (s.chan c).tx = none) : s.txLevels c = [s.txIdleMark c] := by
  simp [State.txLevels, free]

theorem State.txIdleMark_resting (up : s.up = true) (rests : (s.chan c).Resting) :
    s.txIdleMark c = (s.chan c).options.getLsbD 2 := by
  rcases rests with state | state <;> simp [State.txIdleMark, up, state, Channel.parkhi]

theorem State.txIdleMark_started (up : s.up = true) (started : ¬ (s.chan c).Resting) :
    s.txIdleMark c = !(s.chan c).txInverted := by
  cases state : (s.chan c).state <;> simp_all [State.txIdleMark, Channel.Resting]

theorem State.txLevels_message {m : Transmission} (up : s.up = true) (message : (s.chan c).tx = some m) :
    s.txLevels c = (m.bytes.flatMap lineBits).map fun bit => bit != (s.chan c).txInverted := by
  simp only [State.txLevels, up, message]

end

/-- Settles O37. -/
theorem messageEnd : Obligations.MessageEnd := by
  refine ⟨fun c s m up message => ⟨fun ended => ?ends, fun early => exec_messageEnd_early message early⟩,
    fun s c => ⟨State.txLevels_down, fun up free rests => ?parked, fun up free started => ?marking,
      fun m up message => ?bits⟩,
    fun ch now bytes => rfl⟩
  case ends =>
    refine ⟨_, exec_messageEnd_ended up message ended, fun tag pending => ?_, fun noFrame pending => ?_,
      fun noFrame noHello idle => ?_, s.messageEnds_others c, s.messageEnds_only c⟩
    · rw [State.messageEnds_frame pending, State.chan_setChan_same]
    · rw [State.messageEnds_hello noFrame pending, State.chan_setChan_same]
    · rw [State.messageEnds_decides noFrame noHello, Channel.slotDecision_of_not]
      rintro ⟨running, free, slot⟩
      rcases idle with state | hold | slots
      · exact state running
      · exact absurd (free.symm.trans hold) (by decide)
      · exact slot (.inr (.inr slots))
  case parked => rw [State.txLevels_idle free, State.txIdleMark_resting up rests]
  case marking => rw [State.txLevels_idle free, State.txIdleMark_started up started]
  case bits =>
    rw [State.txLevels_message up message]
    refine ⟨?_, fun i b byte => ?_⟩
    · rw [List.length_map, length_flatMap_block lineBits_length]
    · rw [← List.map_drop, ← List.map_take, take_drop_flatMap lineBits_length byte]
      rfl

end Sys2Proof.Machine
end

section
/-! NOTICEs with their labels (R133, R134, R144, R146, R155), and what the slot precedence chooses with the target of a refresh
step (R142 to R144). -/

namespace Sys2Proof.Machine

/-! ### The label and the bytes of a NOTICE (R133, R134, R155) -/

theorem wordChars_length (w : BitVec 32) : (wordChars w).length = 4 := rfl

theorem State.label_beyond {s : State} {r : Route} (beyond : Straps.sources s.straps ≤ r.source.toNat) :
    s.label (.known r) = spaces := if_pos beyond

theorem State.label_unknown {s : State} {r : Route} (source : r.source.toNat < Straps.sources s.straps)
    (unknown : s.onAir (.source r.source.toNat) = .unknown) : s.label (.known r) = questionMarks := by
  simp [State.label, Nat.not_le.mpr source, unknown]

theorem State.label_name {s : State} {r : Route} {n : Name} (source : r.source.toNat < Straps.sources s.straps)
    (name : s.onAir (.source r.source.toNat) = .name n) :
    s.label (.known r) = (wordChars n.first ++ wordChars n.second).map labelChar := by
  simp [State.label, Nat.not_le.mpr source, name]

theorem State.label_length (s : State) (x : TileState) : (s.label x).length = 8 := by
  unfold State.label
  split
  case h_1 | h_2 => rfl
  case h_3 =>
    split
    · rfl
    · split
      · simp [wordChars_length]
      · rfl
      · rfl

/-- The flags and the source field as the spec lists them (R133, R155). -/
theorem noticeFields_eq (x : TileState) (refresh : Bool) :
    noticeFields x refresh = [noticeFlags x refresh] ++ bytes2 (noticeSource x) := by
  cases x with
  | unassigned => cases refresh <;> rfl
  | unknown => cases refresh <;> rfl
  | known r =>
    obtain ⟨source, protect⟩ := r
    cases protect <;> cases refresh <;> simp [noticeFields, noticeFlags, noticeSource]

theorem noticeMessage_eq (t : Nat) (x : Tile) (refresh : Bool) (label : List Byte) :
    noticeMessage t x refresh label = withCheck ([0xA3, BitVec.ofNat 8 t] ++ noticeFields x.current refresh ++
      bytes2 (x.take.extractLsb' 0 16) ++ label) := by
  rw [noticeFields_eq]
  rfl

theorem noticeMessage_length (t : Nat) (x : Tile) (refresh : Bool) {label : List Byte} (eight : label.length = 8) :
    (noticeMessage t x refresh label).length = 16 := by
  simp [noticeMessage, withCheck, bytes2, eight]

/-! ### The channel with a NOTICE begun (R133, R144, R146) -/

section
variable {ch : Channel} {names : TileState → List Byte} {now t : Nat}

theorem Channel.beginNotice_eq_noticed (labels : ∀ x, (names x).length = 8) (refresh : Bool) :
    ch.beginNotice names now t refresh = ch.noticed names now t refresh := by
  unfold Channel.beginNotice Channel.beginMessage Channel.noticed
  dsimp only
  rw [noticeMessage_length t (ch.tile t) refresh (labels _), noticeMessage_eq]
  rfl

theorem Channel.sendRefresh_eq_refreshed (labels : ∀ x, (names x).length = 8) :
    ch.sendRefresh names now t = ch.refreshed names now t := by
  rw [Channel.sendRefresh, Channel.beginNotice_eq_noticed labels]
  rfl

theorem Channel.sendChange_eq (labels : ∀ x, (names x).length = 8) (rest : List Notice) :
    ch.sendChange names now t rest = { ch.noticed names now t false with
      queue := rest, changeCount := min (ch.changeCount + 1) 65535 } := by
  rw [Channel.sendChange, Channel.beginNotice_eq_noticed labels]
  rfl

end

/-! ### The precedence (R142, R143) and the target of a refresh step (R144) -/

section
variable {ch : Channel}

/-- A refresh is to be made: forced, or with an empty queue in progress, owed or pulled in (R142, R143). -/
def Channel.Refreshes (ch : Channel) : Prop :=
  ch.forced = true ∨ ch.queue = [] ∧ (ch.cursor.isSome = true ∨ 1 ≤ ch.debt ∨ ch.pullin = true ∧ -8 < ch.debt)

theorem Channel.slotChoice_refresh (refreshes : ch.Refreshes) : ch.slotChoice = .refresh (ch.cursor.getD 0) := by
  unfold Channel.slotChoice
  by_cases forced : ch.forced = true
  · rw [if_pos forced]
  · obtain ⟨empty, cause⟩ := refreshes.resolve_left forced
    rw [if_neg forced, if_neg (by simp [empty])]
    cases cursor : ch.cursor with
    | some k => rfl
    | none => exact if_pos (cause.resolve_left (by simp [cursor]))

theorem Channel.slotChoice_change (unforced : ch.forced = false) {n : Notice} {rest : List Notice}
    (queue : ch.queue = n :: rest) : ch.slotChoice = .change := by
  simp [Channel.slotChoice, unforced, queue]

theorem Channel.slotChoice_unused (unforced : ch.forced = false) (empty : ch.queue = []) (none : ¬ ch.Refreshes) :
    ch.slotChoice = .unused := by
  simp only [Channel.Refreshes, unforced, empty, Bool.false_eq_true, false_or, true_and, not_or] at none
  obtain ⟨cursor, unowed⟩ := none
  rw [Option.not_isSome_iff_eq_none] at cursor
  simp only [Channel.slotChoice, unforced, empty, cursor]
  exact if_neg (not_or.mpr unowed)

theorem Channel.queued_eq_false_iff {t : Nat} : ch.queued t = false ↔ ∀ n ∈ ch.queue, n.tile ≠ t := by
  rw [← Bool.not_eq_true, Channel.queued_iff]
  simp

/-- A tile that a refresh step passes over: before the cursor, not assigned, or queued (R144). -/
theorem Channel.passedOver_iff {k j : Nat} :
    (!(decide (k ≤ j) && (ch.tile j).assignment.isSome && !ch.queued j)) = true ↔
      (k ≤ j → (ch.tile j).assignment = none ∨ ∃ n ∈ ch.queue, n.tile = j) := by
  simp only [Bool.not_and, Bool.or_eq_true, Bool.not_eq_true', decide_eq_false_iff_not, Bool.not_not, Channel.queued_iff,
    Option.isSome_eq_false_iff, Option.isNone_iff_eq_none, or_assoc, imp_iff_not_or]

theorem Channel.refreshTarget_eq_none_iff {k : Nat} : ch.refreshTarget k = none ↔
    ∀ j, j < ch.tc → k ≤ j → (ch.tile j).assignment = none ∨ ∃ n ∈ ch.queue, n.tile = j := by
  simp only [Channel.refreshTarget, List.find?_range_eq_none, Channel.passedOver_iff]

theorem Channel.refreshTarget_eq_some {k t : Nat} (below : t < ch.tc) (reached : k ≤ t)
    (assigned : (ch.tile t).assignment.isSome = true) (free : ∀ n ∈ ch.queue, n.tile ≠ t)
    (first : ∀ j, k ≤ j → j < t → (ch.tile j).assignment = none ∨ ∃ n ∈ ch.queue, n.tile = j) :
    ch.refreshTarget k = some t := by
  rw [Channel.refreshTarget, List.find?_range_eq_some]
  refine ⟨?_, List.mem_range.mpr below, fun j hj => Channel.passedOver_iff.mpr fun hk => first j hk hj⟩
  simp [reached, assigned, Channel.queued_eq_false_iff.mpr free]

end

end Sys2Proof.Machine
end

section
/-! The slot decision round by round (R131, R132, R140 to R145): the rounds a decision is given are enough, so a dropped head and
a completed refresh take the whole decision again. -/

namespace Sys2Proof.Machine

/-! ### The rounds of a slot decision (R131, R132, R142, R145) -/

section
variable {ch : Channel} {names : TileState → List Byte} {now : Nat}

/-- A queue with its head dropped, because the head's states are equal (R132). -/
def Channel.dropped (ch : Channel) (rest : List Notice) : Channel :=
  { ch with queue := rest, droppedEqual := bump ch.droppedEqual }

theorem Channel.decideRounds_refresh {k t : Nat} (choice : ch.slotChoice = .refresh k)
    (target : ch.refreshTarget k = some t) (fuel : Nat) :
    Channel.decideRounds names now (fuel + 1) ch = ch.sendRefresh names now t := by
  simp only [Channel.decideRounds, choice, target]

theorem Channel.decideRounds_complete {k : Nat} (choice : ch.slotChoice = .refresh k) (none : ch.refreshTarget k = none)
    (fuel : Nat) :
    Channel.decideRounds names now (fuel + 1) ch = Channel.decideRounds names now fuel ch.completeRefresh := by
  simp only [Channel.decideRounds, choice, none]

theorem Channel.decideRounds_change (choice : ch.slotChoice = .change) {n : Notice} {rest : List Notice}
    (queue : ch.queue = n :: rest)
    (differs : (ch.tile n.tile).current ≠ (ch.tile n.tile).lastSent ∨ n.label = true) (fuel : Nat) :
    Channel.decideRounds names now (fuel + 1) ch = ch.sendChange names now n.tile rest := by
  simp only [Channel.decideRounds, choice, queue]
  refine if_neg ?_
  rintro ⟨equal, unmarked⟩
  exact differs.elim (· equal) (by simp [unmarked])

theorem Channel.decideRounds_drop (choice : ch.slotChoice = .change) {n : Notice} {rest : List Notice}
    (queue : ch.queue = n :: rest) (equal : (ch.tile n.tile).current = (ch.tile n.tile).lastSent)
    (unmarked : n.label = false) (fuel : Nat) :
    Channel.decideRounds names now (fuel + 1) ch = Channel.decideRounds names now fuel (ch.dropped rest) := by
  simp only [Channel.decideRounds, choice, queue]
  exact if_pos ⟨equal, unmarked⟩

theorem Channel.decideRounds_unused (choice : ch.slotChoice = .unused) (fuel : Nat) :
    Channel.decideRounds names now (fuel + 1) ch = ch := by
  simp only [Channel.decideRounds, choice]

/-! ### Rounds enough for a decision -/

/-- What bounds the rounds left: a dropped head shortens the queue, and a completed refresh lowers the debt, or at a debt of
−8 was forced or in progress. -/
def Channel.roundsLeft (ch : Channel) : Nat :=
  ch.queue.length + (ch.debt + 8).toNat + (if ch.forced = true ∨ ch.cursor.isSome = true then 1 else 0) + 1

theorem Channel.roundsLeft_le_decideFuel (ch : Channel) : ch.roundsLeft ≤ ch.decideFuel := by
  unfold Channel.roundsLeft Channel.decideFuel
  split <;> omega

theorem Channel.refreshes_of_choice {k : Nat} (choice : ch.slotChoice = .refresh k) : ch.Refreshes := by
  by_contra unforced
  cases forced : ch.forced with
  | true => exact unforced (.inl forced)
  | false =>
    cases queue : ch.queue with
    | nil => exact absurd (choice.symm.trans (Channel.slotChoice_unused forced queue unforced)) nofun
    | cons n rest => exact absurd (choice.symm.trans (Channel.slotChoice_change forced queue)) nofun

theorem Channel.completeRefresh_roundsLeft (refreshes : ch.Refreshes) :
    ch.completeRefresh.roundsLeft < ch.roundsLeft := by
  have after : ch.completeRefresh.roundsLeft =
      ch.queue.length + ((if -8 < ch.debt then ch.debt - 1 else ch.debt) + 8).toNat + 1 := by
    simp [Channel.roundsLeft, Channel.completeRefresh]
  rw [after, Channel.roundsLeft]
  by_cases owing : -8 < ch.debt
  · rw [if_pos owing]
    omega
  · have standing : ch.forced = true ∨ ch.cursor.isSome = true := by
      rcases refreshes with forced | ⟨-, running | owed | ⟨-, pulled⟩⟩
      · exact .inl forced
      · exact .inr running
      · exact absurd owed (by omega)
      · exact absurd pulled owing
    rw [if_neg owing, if_pos standing]
    omega

theorem Channel.dropped_roundsLeft {n : Notice} {rest : List Notice} (queue : ch.queue = n :: rest) :
    (ch.dropped rest).roundsLeft < ch.roundsLeft := by
  have after : (ch.dropped rest).roundsLeft = rest.length + (ch.debt + 8).toNat +
      (if ch.forced = true ∨ ch.cursor.isSome = true then 1 else 0) + 1 := rfl
  rw [after, Channel.roundsLeft, queue, List.length_cons]
  omega

/-- More rounds than are left change nothing. -/
theorem Channel.decideRounds_succ {fuel : Nat} (enough : ch.roundsLeft ≤ fuel) :
    Channel.decideRounds names now (fuel + 1) ch = Channel.decideRounds names now fuel ch := by
  induction fuel generalizing ch with
  | zero => exact absurd enough (Nat.not_le.mpr (Nat.succ_pos _))
  | succ fuel ih =>
    cases choice : ch.slotChoice with
    | unused => rw [Channel.decideRounds_unused choice, Channel.decideRounds_unused choice]
    | refresh k =>
      cases target : ch.refreshTarget k with
      | some t => rw [Channel.decideRounds_refresh choice target, Channel.decideRounds_refresh choice target]
      | none =>
        rw [Channel.decideRounds_complete choice target, Channel.decideRounds_complete choice target]
        have fewer := Channel.completeRefresh_roundsLeft (Channel.refreshes_of_choice choice)
        exact ih (by omega)
    | change =>
      cases queue : ch.queue with
      | nil => simp only [Channel.decideRounds, choice, queue]
      | cons n rest =>
        by_cases equal : (ch.tile n.tile).current = (ch.tile n.tile).lastSent ∧ n.label = false
        · obtain ⟨equal, unmarked⟩ := equal
          rw [Channel.decideRounds_drop choice queue equal unmarked, Channel.decideRounds_drop choice queue equal unmarked]
          have fewer := Channel.dropped_roundsLeft queue
          exact ih (by omega)
        · have differs : (ch.tile n.tile).current ≠ (ch.tile n.tile).lastSent ∨ n.label = true := by
            simpa [imp_iff_not_or] using equal
          rw [Channel.decideRounds_change choice queue differs, Channel.decideRounds_change choice queue differs]

theorem Channel.decideRounds_enough {fuel : Nat} (enough : ch.roundsLeft ≤ fuel) :
    Channel.decideRounds names now fuel ch = Channel.decideRounds names now ch.roundsLeft ch := by
  induction enough with
  | refl => rfl
  | step enough ih => exact (Channel.decideRounds_succ enough).trans ih

/-! ### A slot decision, round by round -/

/-- A slot decision may be taken (R131). -/
abbrev Channel.Decides (ch : Channel) : Prop := ch.state = .running ∧ ch.hold = false ∧ ¬ ch.NoSlot

theorem Channel.slotDecision_eq_rounds (decides : ch.Decides) {fuel : Nat} (enough : ch.roundsLeft ≤ fuel) :
    ch.slotDecision names now = Channel.decideRounds names now fuel ch := by
  rw [Channel.slotDecision, if_pos (ch.canDecide_iff.mpr decides),
    Channel.decideRounds_enough ch.roundsLeft_le_decideFuel, Channel.decideRounds_enough enough]

theorem Channel.slotDecision_refresh (decides : ch.Decides) (refreshes : ch.Refreshes) {t : Nat}
    (target : ch.refreshTarget (ch.cursor.getD 0) = some t) :
    ch.slotDecision names now = ch.sendRefresh names now t := by
  rw [Channel.slotDecision_eq_rounds decides (Nat.le_succ _),
    Channel.decideRounds_refresh (Channel.slotChoice_refresh refreshes) target]

theorem Channel.slotDecision_complete (decides : ch.Decides) (refreshes : ch.Refreshes)
    (none : ch.refreshTarget (ch.cursor.getD 0) = none) :
    ch.slotDecision names now = ch.completeRefresh.slotDecision names now := by
  rw [Channel.slotDecision_eq_rounds decides (Nat.le_succ _),
    Channel.decideRounds_complete (Channel.slotChoice_refresh refreshes) none,
    Channel.slotDecision_eq_rounds (ch := ch.completeRefresh) decides (Channel.completeRefresh_roundsLeft refreshes).le]

theorem Channel.slotDecision_change (decides : ch.Decides) (unforced : ch.forced = false) {n : Notice} {rest : List Notice}
    (queue : ch.queue = n :: rest)
    (differs : (ch.tile n.tile).current ≠ (ch.tile n.tile).lastSent ∨ n.label = true) :
    ch.slotDecision names now = ch.sendChange names now n.tile rest := by
  rw [Channel.slotDecision_eq_rounds decides (Nat.le_succ _),
    Channel.decideRounds_change (Channel.slotChoice_change unforced queue) queue differs]

theorem Channel.slotDecision_drop (decides : ch.Decides) (unforced : ch.forced = false) {n : Notice} {rest : List Notice}
    (queue : ch.queue = n :: rest) (equal : (ch.tile n.tile).current = (ch.tile n.tile).lastSent)
    (unmarked : n.label = false) : ch.slotDecision names now = (ch.dropped rest).slotDecision names now := by
  rw [Channel.slotDecision_eq_rounds decides (Nat.le_succ _),
    Channel.decideRounds_drop (Channel.slotChoice_change unforced queue) queue equal unmarked,
    Channel.slotDecision_eq_rounds (ch := ch.dropped rest) decides (Channel.dropped_roundsLeft queue).le]

theorem Channel.slotDecision_unused (decides : ch.Decides) (unforced : ch.forced = false) (empty : ch.queue = [])
    (none : ¬ ch.Refreshes) : ch.slotDecision names now = ch := by
  rw [Channel.slotDecision_eq_rounds decides (Nat.le_succ _),
    Channel.decideRounds_unused (Channel.slotChoice_unused unforced empty none)]

/-! ### Refreshes pulled in (R143, R145) -/

/-- A channel that does nothing but complete refreshes ahead of need: its queue is empty, no refresh is forced, in progress or
owed, PULLIN is set, and no tile is assigned. -/
structure Channel.PullsIn (ch : Channel) : Prop where
  decides : ch.Decides
  unforced : ch.forced = false
  empty : ch.queue = []
  idle : ch.cursor = none
  pullin : ch.pullin = true
  unowed : ch.debt ≤ 0
  unassigned : ∀ j, j < ch.tc → (ch.tile j).assignment = none

/-- The channel with one refresh pulled in. -/
def Channel.pulledIn (ch : Channel) : Channel :=
  { ch with debt := ch.debt - 1, refreshes := min (ch.refreshes + 1) 65535 }

theorem Channel.PullsIn.pulledIn (h : ch.PullsIn) : ch.pulledIn.PullsIn :=
  { h with unowed := Int.le_trans (Int.sub_le_self _ Int.one_nonneg) h.unowed }

theorem Channel.PullsIn.slotDecision_again (h : ch.PullsIn) (above : -8 < ch.debt) :
    ch.slotDecision names now = ch.pulledIn.slotDecision names now := by
  have target : ch.refreshTarget (ch.cursor.getD 0) = none :=
    Channel.refreshTarget_eq_none_iff.mpr fun j hj _ => .inl (h.unassigned j hj)
  have completed : ch.completeRefresh = ch.pulledIn := by
    unfold Channel.completeRefresh
    rw [if_pos above, ← h.idle, ← h.unforced]
    rfl
  rw [Channel.slotDecision_complete h.decides (.inr ⟨h.empty, .inr (.inr ⟨h.pullin, above⟩)⟩) target, completed]

theorem Channel.PullsIn.slotDecision_done (h : ch.PullsIn) (debt : ch.debt = -8) : ch.slotDecision names now = ch :=
  Channel.slotDecision_unused h.decides h.unforced h.empty (by simp [Channel.Refreshes, h.unforced, h.idle, debt])

/-- The rounds bring the debt to −8, each counted, the count saturating. -/
theorem Channel.PullsIn.slotDecision_eq (h : ch.PullsIn) {k : Nat} (debt : ch.debt = k - 7) :
    ch.slotDecision names now = { ch with debt := -8, refreshes := min (ch.refreshes + (k + 1)) 65535 } := by
  rw [h.slotDecision_again (by omega)]
  induction k generalizing ch with
  | zero =>
    have lowest : ch.debt - 1 = -8 := by omega
    rw [h.pulledIn.slotDecision_done lowest, Channel.pulledIn, lowest]
  | succ k ih =>
    have fewer : ch.pulledIn.debt = k - 7 := by
      show ch.debt - 1 = k - 7
      omega
    have counted : min (min (ch.refreshes + 1) 65535 + (k + 1)) 65535 = min (ch.refreshes + (k + 1 + 1)) 65535 := by omega
    rw [h.pulledIn.slotDecision_again (by omega), ih h.pulledIn fewer, ← counted]
    rfl

end

/-! ### The slot precedence and the change NOTICE (R131 to R134, R142 to R146) -/

/-- Settles O39. -/
theorem slotPrecedence : Obligations.SlotPrecedence := by
  refine ⟨fun c s m up message ended noFrame noHello => ?ends, fun s x => ⟨s.label_length x, rfl, rfl⟩, ?decision⟩
  case ends =>
    exact ⟨_, exec_messageEnd_ended up message ended, s.messageEnds_others c, s.messageEnds_only c,
      State.messageEnds_decides noFrame noHello⟩
  case decision =>
    rintro ch _ names now labels rfl
    refine ⟨fun blocked => Channel.slotDecision_of_not ?blocked names now, fun running free slot => ?decides⟩
    case blocked =>
      rintro ⟨running, free, slot⟩
      rcases blocked with state | hold | noSlot
      · exact state running
      · exact absurd (free.symm.trans hold) (by decide)
      · exact slot noSlot
    case decides =>
      have decides : ch.Decides := ⟨running, free, slot⟩
      refine ⟨fun refreshes => ⟨fun t reached below assigned unqueued first => ?refresh, fun done => ?complete⟩,
        fun unforced n rest queue => ⟨fun differs => ?change, fun equal unmarked => ?drop⟩,
        fun unforced empty idle unowed unpulled => ?unused,
        fun unforced empty idle unowed pullin above unassigned => ?pulledIn⟩
      case refresh =>
        rw [Channel.slotDecision_refresh decides refreshes
          (Channel.refreshTarget_eq_some below reached assigned unqueued first), Channel.sendRefresh_eq_refreshed labels]
      case complete =>
        exact Channel.slotDecision_complete decides refreshes (Channel.refreshTarget_eq_none_iff.mpr done)
      case change =>
        rw [Channel.slotDecision_change decides unforced queue differs, Channel.sendChange_eq labels]
      case drop => exact Channel.slotDecision_drop decides unforced queue equal unmarked
      case unused =>
        refine Channel.slotDecision_unused decides unforced empty ?_
        rintro (forced | ⟨-, inProgress | owed | ⟨pullin, above⟩⟩)
        · exact absurd (unforced.symm.trans forced) (by decide)
        · simp [idle] at inProgress
        · omega
        · rcases unpulled with clear | lowest
          · exact absurd (clear.symm.trans pullin) (by decide)
          · omega
      case pulledIn =>
        have pulls : ch.PullsIn := ⟨decides, unforced, empty, idle, pullin, unowed, unassigned⟩
        obtain ⟨k, debt⟩ : ∃ k : Nat, ch.debt = k - 7 := ⟨(ch.debt + 7).toNat, by omega⟩
        have rounds : (ch.debt + 8).toNat = k + 1 := by omega
        rw [pulls.slotDecision_eq debt, rounds]

/-- Settles O38: the NOTICE is that of `Channel.noticed`, whose bytes the tile's state spells out. -/
theorem changeNoticeBegins : Obligations.ChangeNoticeBegins := by
  refine ⟨?_, fun s r => ⟨State.label_beyond, State.label_unknown, fun n source name => State.label_name source name⟩⟩
  rintro c s m n rest _ body up message ended noFrame noHello running hold slots unforced queue rfl differs known unknown
    unassigned
  refine ⟨_, exec_messageEnd_ended up message ended, ?_, s.messageEnds_others c, s.messageEnds_only c⟩
  have decides : Channel.Decides { s.chan c with tx := none } := by
    refine ⟨running, hold, ?_⟩
    rintro (busy | pending | used)
    · cases busy
    · simp [noFrame] at pending
    · exact absurd used (Nat.pos_iff_ne_zero.mp slots)
  have spelled : body = noticeFields ((s.chan c).tile n.tile).current false ++
      bytes2 (((s.chan c).tile n.tile).take.extractLsb' 0 16) ++ s.label ((s.chan c).tile n.tile).current := by
    cases state : ((s.chan c).tile n.tile).current with
    | unassigned => exact unassigned state
    | known r =>
      rw [known r state]
      obtain ⟨source, protect⟩ := r
      cases protect <;> rfl
    | unknown => exact unknown state
  rw [State.messageEnds_decides noFrame noHello, Channel.slotDecision_change decides unforced queue differs,
    Channel.sendChange_eq s.label_length, spelled, ← List.append_assoc, ← List.append_assoc]
  rfl

end Sys2Proof.Machine
end

section
/-! A STATUS received whole (R148, R149, R156, R157, R159, R162, R163, R165): its eight bytes on an idle receiver, the comparison
with the snapshots, and what the valid STATUS leaves of the channel and of the CHANNEL class. -/

namespace Sys2Proof

/-- The record of a STATUS, valid or not (R157). -/
def StatusBytes.record (g : StatusBytes) : Machine.StatusRecord :=
  { tag := g.tagHigh ++ g.tagLow, digest := g.digestHigh ++ g.digestLow, hold := g.flags.getLsbD 0, capacity := g.capacity }

theorem parseStatus_toList (g : StatusBytes) : parseStatus g.toList = some g.record := rfl

end Sys2Proof

namespace Sys2Proof.Machine

/-! ### Eight bytes on an idle receiver (R156) -/

theorem Channel.expireGap_near {ch : Channel} {bytes : List Byte} {lastEnd start : Nat}
    (rx : ch.rx = .assembling bytes lastEnd) (near : start ≤ lastEnd + 50) : ch.expireGap start = ch := by
  simp only [Channel.expireGap, rx]
  exact if_neg (Nat.not_lt.mpr near)

theorem Channel.takeByte_first {ch : Channel} (listens : ch.rxAwaitMark = false) (idle : ch.rx = .idle) (byteEnd : Nat) :
    ch.takeByte byteEnd 0xB1 = ({ ch with rx := .assembling [0xB1] byteEnd }, none) := by
  simp [Channel.takeByte, listens, Channel.expireGap, idle, statusTypeByte]

section
variable {ch : Channel} {bytes : List Byte} {lastEnd byteEnd : Nat} {b : Byte}

theorem Channel.takeByte_next (listens : ch.rxAwaitMark = false) (rx : ch.rx = .assembling bytes lastEnd)
    (near : byteEnd ≤ lastEnd + 55) (short : bytes.length < 7) :
    ch.takeByte byteEnd b = ({ ch with rx := .assembling (bytes ++ [b]) byteEnd }, none) := by
  have kept : ch.expireGap (byteEnd - Config.byteTime) = ch :=
    Channel.expireGap_near rx (Nat.sub_le_iff_le_add.mpr near)
  simp [Channel.takeByte, listens, kept, rx, short]

theorem Channel.takeByte_last (listens : ch.rxAwaitMark = false) (rx : ch.rx = .assembling bytes lastEnd)
    (near : byteEnd ≤ lastEnd + 55) (long : bytes.length = 7) {r : StatusRecord}
    (record : parseStatus (bytes ++ [b]) = some r) :
    ch.takeByte byteEnd b = if sumIsZero (bytes ++ [b]) then ({ ch with rx := .idle }, some r)
      else ({ ch with rx := .idle, returnErrors := bump ch.returnErrors }, none) := by
  have kept : ch.expireGap (byteEnd - Config.byteTime) = ch :=
    Channel.expireGap_near rx (Nat.sub_le_iff_le_add.mpr near)
  cases sum : sumIsZero (bytes ++ [b]) <;> simp [Channel.takeByte, listens, kept, rx, long, record, sum]

end

section
variable {s u : State} {c : Nat}

/-- `u` came from `s` by bytes received on channel c: the receiver holds `bytes`, the last ended at `lastEnd`, and nothing else
has changed. -/
structure State.Receives (s : State) (c : Nat) (bytes : List Byte) (lastEnd : Nat) (u : State) : Prop where
  chan : u.chan c = { s.chan c with rx := .assembling bytes lastEnd }
  only : s.Only [.chans] u

theorem State.receiveByte_held {b : Byte} {byteEnd : Nat} {x : Channel}
    (taken : (s.chan c).takeByte byteEnd b = (x, none)) : s.receiveByte c byteEnd b = s.setChan c x := by
  simp only [State.receiveByte, taken]

theorem State.receiveByte_valid {b : Byte} {byteEnd : Nat} {x : Channel} {r : StatusRecord}
    (taken : (s.chan c).takeByte byteEnd b = (x, some r)) :
    s.receiveByte c byteEnd b = (s.setChan c x).validStatus c r := by
  simp only [State.receiveByte, taken]

theorem State.receives_first (listens : (s.chan c).rxAwaitMark = false) (idle : (s.chan c).rx = .idle) (byteEnd : Nat) :
    s.Receives c [0xB1] byteEnd (s.receiveByte c byteEnd 0xB1) := by
  rw [State.receiveByte_held (Channel.takeByte_first listens idle byteEnd)]
  exact ⟨State.chan_setChan_same .., s.setChan_only ..⟩

section
variable {bytes : List Byte} {lastEnd byteEnd : Nat} {b : Byte}

theorem State.Receives.listens (h : s.Receives c bytes lastEnd u) (listens : (s.chan c).rxAwaitMark = false) :
    (u.chan c).rxAwaitMark = false := by
  rw [h.chan]
  exact listens

theorem State.Receives.rx (h : s.Receives c bytes lastEnd u) : (u.chan c).rx = .assembling bytes lastEnd := by
  rw [h.chan]

theorem State.Receives.next (h : s.Receives c bytes lastEnd u) (listens : (s.chan c).rxAwaitMark = false)
    (near : byteEnd ≤ lastEnd + 55) (short : bytes.length < 7) :
    s.Receives c (bytes ++ [b]) byteEnd (u.receiveByte c byteEnd b) := by
  rw [State.receiveByte_held (Channel.takeByte_next (h.listens listens) h.rx near short)]
  refine ⟨?_, h.only.trans (u.setChan_only ..)⟩
  rw [State.chan_setChan_same, h.chan]

/-- Bytes received a byte time apart, up to the seventh of a message, are held (R153, R156). -/
theorem State.Receives.foldl (start : Nat) {l : List Byte} {k : Nat}
    (h : s.Receives c bytes (start + Config.byteTime * k - 40) u) (listens : (s.chan c).rxAwaitMark = false)
    (short : bytes.length + l.length < 8) :
    s.Receives c (bytes ++ l) (start + Config.byteTime * (k + l.length) - 40)
      ((l.zipIdx k).foldl (fun acc p => acc.receiveByte c (start + Config.byteTime * (p.2 + 1) - 40) p.1) u) := by
  induction l generalizing bytes k u with
  | nil => simpa using h
  | cons b l ih =>
    rw [List.length_cons] at short
    have next := h.next (b := b) (byteEnd := start + Config.byteTime * (k + 1) - 40) listens
      (by simp only [Config.byteTime]; omega) (by omega)
    have rest := ih next (by simp only [List.length_append, List.length_singleton]; omega)
    rw [List.append_assoc, List.singleton_append, Nat.add_assoc, Nat.add_comm 1] at rest
    exact rest

end

/-- A STATUS on an idle receiver comes to its check byte with the seven bytes before it held. -/
theorem State.receiveMessage_status (listens : (s.chan c).rxAwaitMark = false) (idle : (s.chan c).rx = .idle)
    {g : StatusBytes} (kind : g.kind = 0xB1) :
    ∃ u lastEnd, s.Receives c [g.kind, g.tagHigh, g.tagLow, g.digestHigh, g.digestLow, g.flags, g.capacity] lastEnd u ∧
      s.now ≤ lastEnd + 55 ∧ s.receiveMessage c g.toList = u.receiveByte c s.now g.check := by
  have first := State.receives_first listens idle (s.now + Config.byteTime * 1 - 40)
  have seven := first.foldl s.now (l := [g.tagHigh, g.tagLow, g.digestHigh, g.digestLow, g.flags, g.capacity]) listens
    (by simp)
  rw [← kind] at seven
  refine ⟨_, _, seven, ?_, ?_⟩
  · simp only [Config.byteTime, List.length_cons, List.length_nil]
    omega
  · simp [State.receiveMessage, StatusBytes.toList, Config.byteTime]

end

/-! ### What the valid STATUS leaves of the part (R148, R149, R157 to R165) -/

theorem State.Only.label {fs : List Field} {s t : State} (h : s.Only fs t) (hs : Field.shadow ∉ fs)
    (hp : Field.straps ∉ fs) (hg : Field.gather ∉ fs) : t.label = s.label := by
  funext x
  simp only [State.label, h.straps hp, h.onAir hs hp hg]

theorem State.chan_channelEvent (s : State) (c : Nat) (result : Channel × List FaultKind) :
    (s.channelEvent c result).chan c = result.1 :=
  ((State.channelFaults_only ..).chan (by decide) c).trans (s.chan_setChan_same ..)

theorem State.channelEvent_others (s : State) (c : Nat) (result : Channel × List FaultKind) :
    s.OtherChannels c (s.channelEvent c result) := fun j other =>
  ((State.channelFaults_only ..).chan (by decide) j).trans (State.chan_setChan_other _ _ other.symm)

theorem State.validStatus_others (s : State) (c : Nat) (r : StatusRecord) : s.OtherChannels c (s.validStatus c r) := by
  unfold State.validStatus
  dsimp only
  split
  · exact fun j other => (State.decideSlot_others _ c j other).trans (s.channelEvent_others c _ j other)
  · exact s.channelEvent_others c _

theorem State.receiveByte_others (s : State) (c byteEnd : Nat) (b : Byte) :
    s.OtherChannels c (s.receiveByte c byteEnd b) := by
  have taken : ∀ x, s.OtherChannels c (s.setChan c x) := fun x j other => State.chan_setChan_other _ x other.symm
  unfold State.receiveByte
  dsimp only
  split
  · exact fun j other => (State.validStatus_others _ c _ j other).trans (taken _ j other)
  · exact taken _

theorem State.receiveMessage_others (s : State) (c : Nat) (l : List Byte) :
    s.OtherChannels c (s.receiveMessage c l) := by
  unfold State.receiveMessage
  generalize l.zipIdx = numbered
  suffices received : ∀ u : State, s.OtherChannels c u → s.OtherChannels c (numbered.foldl (fun acc p => acc.receiveByte c
      (s.now + Config.byteTime * (p.2 + 1) - Config.byteTime * l.length) p.1) u) from received s fun _ _ => rfl
  induction numbered with
  | nil => exact fun _ others => others
  | cons p numbered ih =>
    exact fun u others => ih _ fun j other => (u.receiveByte_others c _ p.1 j other).trans (others j other)

section
variable {s : State} {c : Nat} {r : StatusRecord} {x : Channel} {faults : List FaultKind} {decision : Bool}

/-- The channel after a valid STATUS, the slot decision included where the STATUS is an event of one (R131). -/
theorem State.validStatus_chan
    (result : (s.chan c).onStatus (s.device == .halted) s.now r = (x, faults, decision)) :
    (s.validStatus c r).chan c = if decision then x.slotDecision s.label s.now else x := by
  have frame := s.channelEvent_only c (x, faults)
  simp only [State.validStatus, result]
  split
  · rw [State.decideSlot, State.chan_setChan_same, State.chan_channelEvent, frame.now (by decide),
      frame.label (by decide) (by decide) (by decide)]
  · exact s.chan_channelEvent c _

theorem State.validStatus_faults
    (result : (s.chan c).onStatus (s.device == .halted) s.now r = (x, faults, decision)) :
    (s.validStatus c r).faults = ((s.setChan c x).channelFaults c faults).faults := by
  simp only [State.validStatus, result]
  split
  · exact (State.decideSlot_only _ c).faults (by decide)
  · rfl

/-- `t` came from `s` by a valid STATUS r at channel c: the channel is as `Channel.onStatus` has it, with the slot decision where
the STATUS is an event of one (R131), and the fault of a repeated mismatch is recorded (R149). -/
def State.TakesStatus (s : State) (c : Nat) (r : StatusRecord) (t : State) : Prop :=
  ∀ x faults decision, (s.chan c).onStatus (s.device == .halted) s.now r = (x, faults, decision) →
    t.chan c = (if decision then x.slotDecision s.label s.now else x) ∧ (faults = [] → t.faults = s.faults) ∧
      (faults = [.digestMismatch] → t.classState 2 = (s.classState 2).record
        { kind := .digestMismatch, origin := .channel, location := .channel c, tag := s.tag })

theorem State.validStatus_takes (s : State) (c : Nat) (r : StatusRecord) : s.TakesStatus c r (s.validStatus c r) := by
  intro x faults decision result
  have recorded := State.validStatus_faults result
  refine ⟨State.validStatus_chan result, ?_, ?_⟩
  · rintro rfl
    exact recorded
  · rintro rfl
    rw [State.classState, recorded]
    exact State.classState_channelFaults (s.setChan c x) c (kinds := [.digestMismatch]) (by simp [FaultKind.cls]) 2

/-- Where only a channel unit that is again as it was has been set in between, the part takes the STATUS as before. -/
theorem State.TakesStatus.of_only {v t : State} (h : v.TakesStatus c r t) (chan : v.chan c = s.chan c)
    (only : s.Only [.chans] v) : s.TakesStatus c r t := by
  unfold State.TakesStatus at h
  rwa [chan, only.device (by decide), only.now (by decide), only.label (by decide) (by decide) (by decide),
    only.faults (by decide), only.classState (by decide), only.tag (by decide)] at h

/-- A STATUS received whole is an error counted, or the valid STATUS of R157 on the channel as it was. -/
theorem exec_status_idle {c : Fin 16} {g : StatusBytes} (up : s.up = true) (listens : (s.chan c).rxAwaitMark = false)
    (idle : (s.chan c).rx = .idle) (kind : g.kind = 0xB1) :
    ∃ t, exec (.status c g) s = .next t ∧ s.OtherChannels c t ∧ s.Only [.chans, .faults] t ∧
      (sumIsZero g.toList = false →
        t.chan c = { s.chan c with returnErrors := bump (s.chan c).returnErrors } ∧ t.faults = s.faults) ∧
      (sumIsZero g.toList = true → s.TakesStatus c g.record t) := by
  obtain ⟨u, lastEnd, seven, near, received⟩ := State.receiveMessage_status listens idle kind
  have taken : (u.chan c).takeByte s.now g.check = if sumIsZero g.toList then ({ u.chan c with rx := .idle }, some g.record)
      else ({ u.chan c with rx := .idle, returnErrors := bump (u.chan c).returnErrors }, none) :=
    Channel.takeByte_last (seven.listens listens) seven.rx near rfl (parseStatus_toList g)
  have emptied : ({ u.chan c with rx := .idle } : Channel) = s.chan c := by
    rw [seven.chan, ← idle]
  refine ⟨s.receiveMessage c g.toList, congrArg Host.Outcome.next (if_pos up), s.receiveMessage_others c _,
    s.receiveMessage_only .., fun bad => ?bad, fun good => ?good⟩
  case bad =>
    rw [bad] at taken
    rw [received, State.receiveByte_held taken, State.chan_setChan_same]
    refine ⟨?_, seven.only.faults (by decide)⟩
    rw [seven.chan, ← idle]
  case good =>
    rw [good] at taken
    rw [received, State.receiveByte_valid taken, emptied]
    exact (State.validStatus_takes _ c _).of_only (State.chan_setChan_same ..) (seven.only.trans (u.setChan_only ..))

/-! ### The comparison with the snapshots (R148, R149) -/

section
variable {ch : Channel}

theorem Channel.compare_stale (absent : ∀ x ∈ ch.snapshots, x.tag ≠ r.tag) :
    ch.compare r = ({ ch with staleCount := min (ch.staleCount + 1) 65535 }, [], false) := by
  have none : ch.snapshots.find? (fun x => x.tag == r.tag) = none := by simpa using absent
  simp only [Channel.compare, none]
  rfl

variable {snap : Snapshot} (found : ch.snapshots.find? (fun x => x.tag == r.tag) = some snap)
include found

theorem Channel.compare_incomparable (skipped : snap.comparable = false) : ch.compare r = (ch, [], false) := by
  simp [Channel.compare, found, skipped]

theorem Channel.compare_equal (comparable : snap.comparable = true) (equal : snap.digest = r.digest.toNat) :
    ch.compare r = ({ ch with mismatch := 0 }, [], false) := by
  simp [Channel.compare, found, comparable, equal]

theorem Channel.compare_first (comparable : snap.comparable = true) (differs : snap.digest ≠ r.digest.toNat)
    (first : ch.mismatch = 0) : ch.compare r = ({ ch with mismatch := 1 }, [], false) := by
  simp [Channel.compare, found, comparable, differs, first]

theorem Channel.compare_second (comparable : snap.comparable = true) (differs : snap.digest ≠ r.digest.toNat)
    (second : ch.mismatch = 1) :
    ch.compare r = (({ ch with mismatch := 0 } : Channel).force, [.digestMismatch], true) := by
  simp [Channel.compare, found, comparable, differs, second]

end

end

theorem cursor_restarted (cursor : Option Nat) : (cursor.map fun _ => 0) = if cursor = none then none else some 0 := by
  cases cursor <;> rfl

theorem Channel.linked_eq (ch : Channel) (r : StatusRecord) : ch.linked r = { ch.noted r with
    heard := true
    missing := 0
    hold := r.hold
    heldFrames := if ch.hold = true ∧ r.hold = true then ch.heldFrames else 0 } := by
  simp only [Channel.linked, Bool.and_eq_true]

theorem sumIsZero_toList (g : StatusBytes) : sumIsZero g.toList = true ↔
    g.kind + g.tagHigh + g.tagLow + g.digestHigh + g.digestLow + g.flags + g.capacity + g.check = 0 := by
  simp [sumIsZero, StatusBytes.toList]

/-- Settles O40. -/
theorem statusByChannelState : Obligations.StatusByChannelState := by
  rintro c s g _ _ up idle listens kind rfl rfl
  obtain ⟨t, run, others, only, bad, good⟩ := exec_status_idle up listens idle kind
  refine ⟨t, run, others, only, fun wrong => bad (Bool.eq_false_iff.mpr (mt (sumIsZero_toList g).mp wrong)),
    fun right => ?valid⟩
  have takes := good ((sumIsZero_toList g).mpr right)
  refine ⟨fun stopped => ?stopped, fun listening => ?listening, fun starting together => ?together,
    fun returns entered is_entered => ?returned, fun running linked decided is_linked is_decided => ?running⟩
  case stopped =>
    obtain ⟨chan, faults, -⟩ := takes _ _ _ (Channel.onStatus_stopped stopped)
    exact ⟨chan, faults rfl⟩
  case listening =>
    obtain ⟨chan, faults, -⟩ := takes _ _ _ (Channel.onStatus_listening listening)
    refine ⟨chan.trans ?_, faults rfl⟩
    simp only [beq_iff_eq]
    rfl
  case together =>
    obtain ⟨chan, faults, -⟩ := takes _ _ _ (Channel.onStatus_together starting together)
    exact ⟨chan, faults rfl⟩
  case returned =>
    obtain ⟨chan, faults, -⟩ := takes _ _ _ (Channel.onStatus_returns returns)
    have same : ((s.chan c).noted g.record).enterRunning g.record = entered := by
      rw [is_entered, ← cursor_restarted]
      rfl
    rw [same] at chan
    refine ⟨chan, faults rfl, fun noSlot => chan.trans (Channel.slotDecision_of_not ?_ _ _)⟩
    rintro ⟨-, -, slot⟩
    rw [is_entered] at slot
    exact slot noSlot
  case running =>
    obtain rfl : linked = (s.chan c).linked g.record := is_linked.trans (Channel.linked_eq ..).symm
    have unforced : ∀ x, ((s.chan c).linked g.record).compare g.record = (x, [], false) →
        t.chan c = decided x ∧ t.faults = s.faults := by
      intro x compared
      obtain ⟨chan, faults, -⟩ := takes _ _ _ (Channel.onStatus_compared running compared)
      refine ⟨chan.trans ?_, faults rfl⟩
      simp only [is_decided, Bool.false_or, Bool.and_eq_true, Bool.not_eq_true']
      rfl
    refine ⟨fun absent => unforced _ (Channel.compare_stale absent), fun snap found =>
      ⟨fun skipped => unforced _ (Channel.compare_incomparable found skipped),
        fun comparable equal => unforced _ (Channel.compare_equal found comparable equal),
        fun comparable differs first => unforced _ (Channel.compare_first found comparable differs first),
        fun comparable differs second repaired is_repaired => ?repaired⟩⟩
    obtain ⟨chan, -, fault⟩ := takes _ _ _
      (Channel.onStatus_compared running (Channel.compare_second found comparable differs second))
    rw [Bool.true_or, if_pos rfl] at chan
    refine ⟨chan.trans ?_, fault rfl⟩
    rw [is_repaired, ← cursor_restarted]
    rfl

end Sys2Proof.Machine
end

section
/-! STOP CHANNELS (R137, R139, R158, R166): the stop effects on the channels of its mask. -/

namespace Sys2Proof.Machine

/-- The stop effects leave a channel its tile records, their last-sent states aside, its parameters, counters, transmitter and
receiver (R137, R139, R158). -/
theorem Channel.stopEffects_eq (ch : Channel) : ch.stopEffects = { ch with
    tiles := ch.stopEffects.tiles
    state := if ch.options.getLsbD 3 then .listening else .stopped
    queue := []
    slots := 0
    framePending := none
    ticks := 0
    debt := 0
    forced := false
    cursor := none
    mismatch := 0
    digest := 0
    snapshots := []
    helloCount := 0
    helloPending := false
    heard := false
    missing := 0
    hold := false
    heldFrames := 0 } := rfl

theorem State.chan_stopMasked (s : State) (mask : BitVec 16) {c : Nat} (hc : c < 16) :
    (s.stopMasked mask).chan c = if mask.getLsbD c then (s.chan c).stopEffects else s.chan c := by
  rw [State.stopMasked, State.chan_mapChans]
  exact if_pos hc

theorem exec_stopChannels_awaits {s : State} {mask : BitVec 16} (h : s.Awaits ([0x31] ++ bytes2 mask)) :
    exec (.stopChannels mask) s = .next ((s.stopMasked mask).replied ([0x31] ++ bytes2 mask) [0x00]) :=
  congrArg Host.Outcome.next (State.command_awaits h _)

/-- Settles O50. -/
theorem stopChannels : Obligations.StopChannels := by
  intro mask s awaits
  have frame : s.Only [.chans, .mgmt] ((s.stopMasked mask).replied ([0x31] ++ bytes2 mask) [0x00]) :=
    ((s.stopMasked_only mask).mono (by decide)).trans ((State.setMgmt_only _ _).mono (by decide))
  refine ⟨_, exec_stopChannels_awaits awaits, rfl, fun c hc masked => ?masked, fun c hc unmasked => ?other, frame⟩
  case masked =>
    have stopped : ((s.stopMasked mask).replied ([0x31] ++ bytes2 mask) [0x00]).chan c = (s.chan c).stopEffects := by
      rw [State.chan_replied, State.chan_stopMasked s mask hc, if_pos masked]
    rw [stopped]
    refine ⟨fun j hj => ?_, Channel.stopEffects_eq _⟩
    rw [Channel.stopEffects_tile]
    exact if_pos hj
  case other =>
    rw [State.chan_replied, State.chan_stopMasked s mask hc, unmasked]
    rfl

end Sys2Proof.Machine
end

section
/-! A channel's part of a switch point commanded alone (R140, R161, R164): each part where it is due, and nothing otherwise. -/

namespace Sys2Proof.Machine

/-! ### When each part is due -/

section
variable {ch : Channel}

theorem Channel.lostDue_iff_running :
    ch.lostDue = true ↔ ch.state = .running ∧ ch.heard = false ∧ 3 ≤ ch.missing :=
  ⟨fun due =>
    have running : ch.state = .running := by simp_all [Channel.lostDue]
    ⟨running, (Channel.lostDue_iff running).mp due⟩,
   fun ⟨running, lapsed⟩ => (Channel.lostDue_iff running).mpr lapsed⟩

theorem Channel.stallDue_iff :
    ch.stallDue = true ↔
      ch.state = .running ∧ (ch.heard = true ∨ ch.missing < 3) ∧ ch.hold = true ∧ ch.heldFrames = 15 := by
  have kept (running : ch.state = .running) : ch.lostDue = false ↔ ch.heard = true ∨ ch.missing < 3 := by
    rw [← Bool.not_eq_true, Channel.lostDue_iff running, not_and_or, Bool.not_eq_false, Nat.not_le]
  simp only [Channel.stallDue, Config.heldMax, Bool.and_eq_true, beq_iff_eq, Bool.not_eq_true', decide_eq_true_eq,
    Nat.reduceEqDiff, and_assoc]
  exact and_congr_right fun running => and_congr_left' (kept running)

theorem Channel.tickDue_iff : ch.tickDue = true ↔ ch.state = .running ∧ ch.interval ≤ ch.ticks + 1 := by
  simp [Channel.tickDue]

theorem Channel.startTimeoutDue_iff : ch.startTimeoutDue = true ↔ ch.state = .starting ∧ 8 ≤ ch.helloCount := by
  rw [Channel.startTimeoutDue, Bool.and_eq_true, beq_iff_eq, decide_eq_true_iff]
  rfl

theorem Channel.account_stalled (running : ch.state = .running) (present : ch.heard = true ∨ ch.missing < 3)
    (hold : ch.hold = true) (held : ch.heldFrames = 15) :
    ch.account =
      ({ ch with
          missing := if ch.heard = true then ch.missing else ch.missing + 1
          heldFrames := 16
          heard := false },
        [.endpointStalled]) := by
  simp [Channel.account_present running present, hold, held]

end

/-! ### Each part as a command -/

section
variable {s : State} {c : Fin 16}

theorem State.classState_channelEvent_one (s : State) (c : Nat) (x : Channel) {k : FaultKind} (channel : k.cls = .channel) :
    (s.channelEvent c (x, [k])).classState 2 =
      (s.classState 2).record { kind := k, origin := .channel, location := .channel c, tag := s.tag } :=
  State.classState_channelFaults (s.setChan c x) c (by simpa using channel) 2

theorem exec_statusLost (up : s.up = true) :
    exec (.statusLost c) s =
      .next (if (s.chan c).lostDue = true then s.channelEvent c (s.chan c).account else s) := by
  simp only [exec, execStatusLost, up, Bool.true_and]

theorem exec_endpointStalled (up : s.up = true) :
    exec (.endpointStalled c) s =
      .next (if (s.chan c).stallDue = true then s.channelEvent c (s.chan c).account else s) := by
  simp only [exec, execEndpointStalled, up, Bool.true_and]

theorem exec_startingTimeout (up : s.up = true) :
    exec (.startingTimeout c) s =
      .next (if (s.chan c).startTimeoutDue = true then s.channelEvent c ((s.chan c).stopEffects, [.noPartner]) else s) := by
  simp only [exec, execStartingTimeout, up, Bool.true_and]

theorem exec_debtTick (up : s.up = true) :
    exec (.debtTick c) s =
      .next (if (s.chan c).tickDue = true then s.channelEvent c (s.chan c).countTick else s) := by
  simp only [exec, execDebtTick, up, Bool.true_and]

/-- A command that replaces one channel unit and records one channel fault with it, the frame tag as it stands. -/
theorem exec_records_one {i : Instr} {x : Channel} {k : FaultKind} (run : exec i s = .next (s.channelEvent c (x, [k])))
    (channel : k.cls = .channel) :
    ∃ t, exec i s = .next t ∧ t.chan c = x ∧
      t.classState 2 = (s.classState 2).record
        { kind := k, origin := .channel, location := .channel c, tag := s.tag } ∧
      s.OtherChannels c t ∧ s.Only [.chans, .faults] t :=
  ⟨_, run, s.chan_channelEvent c _, s.classState_channelEvent_one c x channel, s.channelEvent_others c _,
    s.channelEvent_only c _⟩

end

/-- Settles O36: each command by the cases of its part, due or not. -/
theorem switchPointPartsAlone : Obligations.SwitchPointPartsAlone := by
  intro c s up
  refine ⟨fun running unheard missing => ?lost, fun early => ?notLost,
    fun running present hold held => ?stalled, fun early => ?notStalled,
    fun starting made => ?timeout, fun early => ?noTimeout, fun running due => ?tick, fun early => ?noTick⟩
  case lost =>
    refine exec_records_one ?_ rfl
    rw [exec_statusLost up, if_pos (Channel.lostDue_iff_running.mpr ⟨running, unheard, missing⟩),
      Channel.account_lost running unheard missing]
  case notLost =>
    rw [exec_statusLost up, if_neg (mt Channel.lostDue_iff_running.mp (by grind))]
  case stalled =>
    refine exec_records_one ?_ rfl
    rw [exec_endpointStalled up, if_pos (Channel.stallDue_iff.mpr ⟨running, present, hold, held⟩),
      Channel.account_stalled running present hold held]
  case notStalled =>
    rw [exec_endpointStalled up, if_neg (mt Channel.stallDue_iff.mp (by grind))]
  case timeout =>
    refine exec_records_one ?_ rfl
    rw [exec_startingTimeout up, if_pos (Channel.startTimeoutDue_iff.mpr ⟨starting, made⟩)]
  case noTimeout =>
    rw [exec_startingTimeout up, if_neg (mt Channel.startTimeoutDue_iff.mp (by grind))]
  case tick =>
    refine ⟨s.channelEvent c (s.chan c).countTick, ?_, fun owing => ?_, fun forcing => ?_, fun overrun => ?_,
      s.channelEvent_others c _, s.channelEvent_only c _⟩
    · rw [exec_debtTick up, if_pos (Channel.tickDue_iff.mpr ⟨running, due⟩)]
    · rw [Channel.countTick_owing due owing]
      exact ⟨s.chan_channelEvent c _, rfl⟩
    · rw [Channel.countTick_forcing due forcing]
      exact ⟨s.chan_channelEvent c _, rfl⟩
    · rw [Channel.countTick_overrun due overrun.ge]
      exact ⟨s.chan_channelEvent c _, s.classState_channelEvent_one c _ rfl⟩
  case noTick =>
    rw [exec_debtTick up, if_neg (mt Channel.tickDue_iff.mp (by grind))]

end Sys2Proof.Machine
end

section
/-! START CHANNELS (R160, R168): the resting channels of its mask start, and every other channel is as it was. -/

namespace Sys2Proof.Machine

/-! ### A command that touches channel units only, with its reply standing (R169) -/

section
variable {s t : State}

theorem State.Only.mgmt_replied (h : s.Only [.chans] t) (received reply : List Byte) :
    (t.replied received reply).mgmt = (s.replied received reply).mgmt := by
  simp only [State.replied, h.mgmt (by decide)]

theorem State.Only.replied (h : s.Only [.chans] t) (received reply : List Byte) :
    s.Only [.chans, .mgmt] (t.replied received reply) :=
  (h.mono (by decide)).trans ((State.setMgmt_only _ _).mono (by decide))

theorem State.setChan_others (s : State) (c : Nat) (x : Channel) : s.OtherChannels c (s.setChan c x) :=
  fun _ other => State.chan_setChan_other s x other.symm

end

/-! ### The channel started (R160, R168) -/

section
variable {ch : Channel}

theorem Channel.start_resting (rests : ch.Resting) (now : Nat) : ch.start now = { ch with
    state := .starting
    helloCount := 0
    helloPending := false
    startedAt := if ch.state = .listening then some now else none } := by
  obtain state | state := rests <;> simp [Channel.start, state]

theorem Channel.start_started (started : ¬ ch.Resting) (now : Nat) : ch.start now = ch := by
  cases state : ch.state with
  | stopped => exact absurd (.inl state) started
  | listening => exact absurd (.inr state) started
  | starting | running | lost => simp only [Channel.start, state]

theorem Channel.Resting.quiet (rests : ch.Resting) (quiet : ch.QuietOffAir) :
    ch.queue = [] ∧ ch.slots = 0 ∧ ch.digest = 0 ∧ ch.snapshots = [] := by
  have notRunning : ch.state ≠ .running := by obtain state | state := rests <;> simp [state]
  have notLost : ch.state ≠ .lost := by obtain state | state := rests <;> simp [state]
  obtain ⟨-, -, -, -, digest, snapshots, queue, slots, -⟩ := quiet notRunning notLost
  exact ⟨queue, slots, digest, snapshots⟩

end

/-! ### START CHANNELS awaited (R160) -/

section
variable {s : State} {mask : BitVec 16}

theorem State.runStart_halted (halted : s.device = .halted) : s.runStart mask = (s, [statusState]) := if_pos halted

theorem State.chan_runStart (runs : s.device ≠ .halted) {c : Nat} (hc : c < 16) :
    (s.runStart mask).1.chan c = if mask.getLsbD c = true then (s.chan c).start s.now else s.chan c := by
  rw [State.runStart, if_neg runs, State.chan_mapChans]
  exact if_pos hc

theorem State.runStart_done (runs : s.device ≠ .halted) : s.runStart mask = ((s.runStart mask).1, [statusDone]) := by
  rw [State.runStart, if_neg runs]

/-- START CHANNELS at its last byte, with the answer standing to be shifted out. -/
theorem exec_startChannels_awaits (h : s.Awaits ([0x30] ++ bytes2 mask)) {t : State} {reply : List Byte}
    (answer : s.runStart mask = (t, reply)) :
    exec (.startChannels mask) s = .next (t.replied ([0x30] ++ bytes2 mask) reply) :=
  congrArg Host.Outcome.next ((State.command_awaits h _).trans (by rw [answer]))

end

/-- Settles O49. -/
theorem startChannels : Obligations.StartChannels := by
  intro mask s awaits
  refine ⟨fun halted => exec_startChannels_awaits awaits (State.runStart_halted halted), fun runs => ?_⟩
  have frame := s.runStart_only mask
  refine ⟨_, exec_startChannels_awaits awaits (State.runStart_done runs), frame.mgmt_replied _ _, fun c hc => ?chan,
    frame.replied _ _⟩
  rw [State.chan_replied, State.chan_runStart runs hc]
  refine ⟨fun masked rests => ?_, fun masked started => ?_, fun unmasked => ?_, fun quiet rests => ?_⟩
  · rw [if_pos masked, Channel.start_resting rests]
  · rw [if_pos masked, Channel.start_started started]
  · rw [unmasked]
    rfl
  · rw [Channel.start_resting rests]
    split <;> exact rests.quiet quiet

end Sys2Proof.Machine
end

section
/-! SET PARAM (R153, R154, R158, R174): its checks in order, the value stored, and what stored options make of a channel. -/

namespace Sys2Proof.Machine

/-! ### The limits (R174) -/

theorem Param.low_le_high (p : Param) : p.low ≤ p.high := by
  cases p <;> decide

theorem Param.clamp_word {p : Param} (high : p.high = 65535) (value : BitVec 16) :
    p.clamp value.toNat = max value.toNat p.low := by
  have low := Param.low_le_high p
  rw [high] at low
  rw [Param.clamp, high, Nat.min_eq_left (Nat.max_le.mpr ⟨Nat.le_of_lt_succ value.isLt, low⟩)]

/-! ### The options stored (R153, R154, R158) -/

theorem optionBits_eq (value : BitVec 16) : BitVec.ofNat 5 value.toNat = value.extractLsb' 0 5 := by
  apply BitVec.eq_of_toNat_eq
  simp [BitVec.extractLsb'_toNat]

theorem getLsbD_optionBits (value : BitVec 16) {i : Nat} (hi : i < 5) :
    (value.extractLsb' 0 5).getLsbD i = value.getLsbD i := by
  simp [hi]

section
variable {ch : Channel} {opts : BitVec 5} {onLine : Option Bool}

/-- The options stored with nothing on the return line: WATCH moves a resting channel, and TXINV is in force on a free
transmitter (R153, R158). -/
theorem Channel.setOptions_none : ch.setOptions opts none = { ch with
    options := opts
    state := if ch.Resting then (if opts.getLsbD 3 then .listening else .stopped) else ch.state
    txInverted := if ch.tx = none ∧ opts.getLsbD 0 ≠ ch.txinv then opts.getLsbD 0 else ch.txInverted } := by
  have inverted : (ch.tx.isNone && opts.getLsbD 0 != ch.txinv) = true ↔ ch.tx = none ∧ opts.getLsbD 0 ≠ ch.txinv := by
    rw [Bool.and_eq_true, Option.isNone_iff_eq_none, bne_iff_ne]
  simp only [← inverted]
  by_cases rests : ch.Resting
  · rw [if_pos rests]
    obtain state | state := rests <;> simp only [Channel.setOptions, state] <;> rfl
  · rw [if_neg rests]
    cases state : ch.state with
    | stopped => exact absurd (.inl state) rests
    | listening => exact absurd (.inr state) rests
    | starting | running | lost => simp only [Channel.setOptions, state]; rfl

theorem Channel.setOptions_receiver_kept
    (kept : onLine = none ∨ opts.getLsbD 1 = ch.rxinv ∨ ch.rxAwaitMark = true) :
    ch.setOptions opts onLine = ch.setOptions opts none := by
  cases onLine with
  | none => rfl
  | some level => exact if_pos (kept.resolve_left nofun)

/-- A change of RXINV with the receiver listening and the line at a level ends the byte in reception as a framing error
(R154). -/
theorem Channel.setOptions_receiver_broken (level : Bool) (changed : opts.getLsbD 1 ≠ ch.rxinv)
    (listens : ch.rxAwaitMark = false) :
    ch.setOptions opts (some level) =
      { ch.setOptions opts none with rx := .idle, returnErrors := bump ch.returnErrors, rxWire := level } :=
  if_neg (not_or.mpr ⟨changed, Bool.eq_false_iff.mp listens⟩)

theorem Channel.rxAwaitMark_setOptions :
    (ch.setOptions opts onLine).rxAwaitMark = true ↔ (ch.setOptions opts onLine).rxWire = opts.getLsbD 1 := by
  obtain ⟨_, _, _, _, _, stored, -⟩ := ch.setOptions_spec opts onLine
  rw [stored]
  exact beq_iff_eq

end

/-! ### The checks (R174) -/

theorem Channel.tcBlocked_iff {ch : Channel} {v : Nat} :
    ch.tcBlocked v = true ↔ ∃ t, v ≤ t ∧ t < 64 ∧ (ch.tile t).assignment.isSome = true := by
  simp only [Channel.tcBlocked, List.any_eq_true, List.mem_range, Bool.and_eq_true, decide_eq_true_eq]
  exact exists_congr fun t => and_left_comm

section
variable {s : State} {number chan : Byte} {value : BitVec 16} {onLine : Option Bool} {p : Param}

theorem State.runSetParam_unknown (unknown : paramOf number = none) :
    s.runSetParam number chan value onLine = (s, [statusRange]) := by
  rw [State.runSetParam, unknown]
  rfl

theorem State.runSetParam_channel (known : paramOf number = some p) (perChannel : p.perChannel = true)
    (beyond : 15 < chan.toNat) : s.runSetParam number chan value onLine = (s, [statusRange]) := by
  simp [State.runSetParam, known, perChannel, beyond, State.refuse]

theorem State.runSetParam_blocked (tc : paramOf number = some .tc) (within : chan.toNat ≤ 15)
    (blocked : (s.chan chan.toNat).tcBlocked (Param.tc.clamp value.toNat) = true) :
    s.runSetParam number chan value onLine = (s, [statusState]) := by
  simp [State.runSetParam, tc, Nat.not_lt.mpr within, blocked, State.refuse]

theorem State.runSetParam_stored (known : paramOf number = some p) (within : p.perChannel = true → chan.toNat ≤ 15)
    (free : p = .tc → ¬ (s.chan chan.toNat).tcBlocked (p.clamp value.toNat) = true) :
    s.runSetParam number chan value onLine =
      (s.storeParam p chan.toNat (p.clamp value.toNat) onLine,
        [if p.clamp value.toNat = value.toNat then statusDone else statusClamped]) := by
  have inRange : ¬ (p.perChannel && decide (15 < chan.toNat)) = true := by
    simpa using within
  simp only [State.runSetParam, known]
  rw [if_neg inRange, if_neg fun ⟨tc, blocked⟩ => free tc blocked]

/-- SET PARAM at its last byte, with the answer standing to be shifted out. -/
theorem exec_setParam_awaits (h : s.Awaits ([0x10, number, chan] ++ bytes2 value)) {t : State} {reply : List Byte}
    (answer : s.runSetParam number chan value onLine = (t, reply)) :
    exec (.setParam number chan value onLine) s = .next (t.replied ([0x10, number, chan] ++ bytes2 value) reply) :=
  congrArg Host.Outcome.next ((State.command_awaits h _).trans (by rw [answer]))

/-- SET PARAM that passes its checks stores the value moved to its nearer limit. -/
theorem exec_setParam_stored (h : s.Awaits ([0x10, number, chan] ++ bytes2 value)) (known : paramOf number = some p)
    (within : p.perChannel = true → chan.toNat ≤ 15) {v : Nat} (moved : p.clamp value.toNat = v)
    (free : p = .tc → ¬ (s.chan chan.toNat).tcBlocked v = true) :
    exec (.setParam number chan value onLine) s =
      .next ((s.storeParam p chan.toNat v onLine).replied ([0x10, number, chan] ++ bytes2 value)
        [if v = value.toNat then 0x00 else 0x01]) := by
  subst moved
  exact exec_setParam_awaits h (State.runSetParam_stored known within free)

end

/-- A command that replaces one channel unit and stands with its reply touches nothing else. -/
theorem exec_replaces_chan {i : Instr} {s : State} {c : Nat} {x : Channel} {received reply : List Byte}
    (run : exec i s = .next ((s.setChan c x).replied received reply)) :
    ∃ u, exec i s = .next u ∧ u.mgmt = (s.replied received reply).mgmt ∧ u.chan c = x ∧ s.OtherChannels c u ∧
      s.Only [.chans, .mgmt] u :=
  ⟨_, run, rfl, s.chan_setChan_same c x, s.setChan_others c x, (s.setChan_only c x).replied _ _⟩

/-- Settles O46: the checks in their order, then each parameter by what storing it does. -/
theorem setParamStores : Obligations.SetParamStores := by
  rintro number chan value onLine s _ awaits rfl
  refine ⟨fun unknown => exec_setParam_awaits awaits (State.runSetParam_unknown unknown), fun perChannel beyond => ?beyond,
    ?p0, ?ls, ?tm, ?ta, fun within => ⟨?tc, ?budget, ?interval, ?options⟩⟩
  case beyond =>
    obtain rfl | rfl | rfl | rfl := perChannel <;>
      exact exec_setParam_awaits awaits (State.runSetParam_channel rfl rfl beyond)
  case p0 =>
    rintro v moved rfl
    exact exec_setParam_stored awaits (p := .p0) rfl nofun moved.symm nofun
  case ls =>
    rintro v moved rfl
    exact exec_setParam_stored awaits (p := .ls) rfl nofun (by simp [moved, Param.clamp, Param.low, Param.high]) nofun
  case tm =>
    rintro v moved rfl
    exact exec_setParam_stored awaits (p := .tm) rfl nofun moved.symm nofun
  case ta =>
    rintro v moved rfl
    exact exec_setParam_stored awaits (p := .ta) rfl nofun ((Param.clamp_word rfl value).trans moved.symm) nofun
  case tc =>
    rintro v moved rfl
    refine ⟨fun assigned => ?blocked, fun unassigned => exec_replaces_chan (exec_setParam_stored awaits (p := .tc) rfl
      (fun _ => within) moved.symm fun _ blocked => ?free)⟩
    case blocked =>
      rw [moved] at assigned
      exact exec_setParam_awaits awaits (State.runSetParam_blocked rfl within (Channel.tcBlocked_iff.mpr assigned))
    case free =>
      obtain ⟨t, above, below, assigned⟩ := Channel.tcBlocked_iff.mp blocked
      simp [unassigned t above below] at assigned
  case budget =>
    rintro v moved rfl
    exact exec_replaces_chan (exec_setParam_stored awaits (p := .budget) rfl (fun _ => within) moved.symm nofun)
  case interval =>
    rintro v moved rfl
    exact exec_replaces_chan (exec_setParam_stored awaits (p := .interval) rfl (fun _ => within) moved.symm nofun)
  case options =>
    rintro rfl
    have whole : Param.options.clamp value.toNat = value.toNat :=
      (Param.clamp_word rfl value).trans (Nat.max_eq_left (Nat.zero_le _))
    have run := exec_setParam_stored (onLine := onLine) awaits (p := .options) rfl (fun _ => within) whole nofun
    rw [if_pos rfl, State.storeParam, optionBits_eq] at run
    obtain ⟨u, run, mgmt, chan_u, others, only⟩ := exec_replaces_chan run
    refine ⟨u, run, mgmt, ?_, ?_, others, only⟩
    · rintro _ rfl
      rw [chan_u, ← getLsbD_optionBits value (i := 0) (by decide), ← getLsbD_optionBits value (i := 1) (by decide),
        ← getLsbD_optionBits value (i := 3) (by decide), ← Channel.setOptions_none]
      refine ⟨Channel.setOptions_receiver_kept, ?_⟩
      rintro level rfl changed listens
      exact Channel.setOptions_receiver_broken level changed listens
    · rw [chan_u, ← getLsbD_optionBits value (i := 1) (by decide)]
      exact Channel.rxAwaitMark_setOptions

end Sys2Proof.Machine
end

section
/-! The events of a return line (R154, R156, R157): a framing error, the bytes of a STATUS one by one, the gap's expiry and
the line's return to mark. -/

namespace Sys2Proof

/-- The bytes of a STATUS before its check byte (R155). -/
def StatusBytes.beforeCheck (g : StatusBytes) : List Byte :=
  [g.kind, g.tagHigh, g.tagLow, g.digestHigh, g.digestLow, g.flags, g.capacity]

theorem StatusBytes.beforeCheck_append_check (g : StatusBytes) : g.beforeCheck ++ [g.check] = g.toList := rfl

/-! ### A table written twice at one key -/

theorem Table.filter_insertSorted {α : Type} (k : Nat) (v : α) (t : Table α) :
    (Table.insertSorted k v t).filter (fun p => p.1 != k) = t.filter fun p => p.1 != k := by
  induction t with
  | nil => simp [Table.insertSorted]
  | cons p t ih =>
    simp only [Table.insertSorted]
    split
    · simp
    · rw [List.filter_cons, List.filter_cons, ih]

theorem Table.set_set {α : Type} [DecidableEq α] (d : α) (t : Table α) (k : Nat) (v w : α) :
    Table.set d (Table.set d t k v) k w = Table.set d t k w := by
  have unlisted : (Table.set d t k v).filter (fun p => p.1 != k) = t.filter fun p => p.1 != k := by
    simp only [Table.set]
    split
    · simp
    · rw [Table.filter_insertSorted, List.filter_filter]
      simp
  rw [Table.set, unlisted, Table.set]

end Sys2Proof

namespace Sys2Proof.Machine

theorem State.setChan_setChan (s : State) (c : Nat) (x y : Channel) : (s.setChan c x).setChan c y = s.setChan c y := by
  simp only [State.setChan, Table.set_set]

/-! ### The receiver of one channel unit (R154, R156) -/

section
variable {ch : Channel} {bytes : List Byte} {lastEnd byteEnd : Nat} {b : Byte}

theorem Channel.expireGap_idle (idle : ch.rx = .idle) (start : Nat) : ch.expireGap start = ch := by
  simp only [Channel.expireGap, idle]

theorem Channel.expireGap_far (rx : ch.rx = .assembling bytes lastEnd) {start : Nat} (far : lastEnd + 50 < start) :
    ch.expireGap start = ch.gapExpires := by
  simp only [Channel.expireGap, rx]
  exact if_pos far

theorem Channel.gapExpires_expireGap (ch : Channel) (start : Nat) : ch.gapExpires.expireGap start = ch.gapExpires := rfl

theorem Channel.takeByte_waits (waits : ch.rxAwaitMark = true) : ch.takeByte byteEnd b = (ch, none) := if_pos waits

theorem Channel.takeByte_unknown (listens : ch.rxAwaitMark = false) (idle : ch.rx = .idle) (unknown : b ≠ 0xB1) :
    ch.takeByte byteEnd b = ({ ch with returnErrors := bump ch.returnErrors }, none) := by
  simp only [Channel.takeByte, listens, Channel.expireGap_idle idle, idle, statusTypeByte, if_neg unknown,
    Bool.false_eq_true, if_false]

theorem Channel.takeByte_bad (listens : ch.rxAwaitMark = false) (rx : ch.rx = .assembling bytes lastEnd)
    (near : byteEnd ≤ lastEnd + 55) (long : bytes.length = 7) (bad : sumIsZero (bytes ++ [b]) = false) :
    ch.takeByte byteEnd b = ({ ch with rx := .idle, returnErrors := bump ch.returnErrors }, none) := by
  have kept : ch.expireGap (byteEnd - Config.byteTime) = ch :=
    Channel.expireGap_near rx (Nat.sub_le_iff_le_add.mpr near)
  simp [Channel.takeByte, listens, kept, rx, long, bad]

/-- A byte whose start bit came after the gap finds the receiver as the gap's expiry leaves it (R156, log entry 13). -/
theorem Channel.takeByte_far (listens : ch.rxAwaitMark = false) (rx : ch.rx = .assembling bytes lastEnd)
    (far : lastEnd + 55 < byteEnd) : ch.takeByte byteEnd b = ch.gapExpires.takeByte byteEnd b := by
  have expired : ch.expireGap (byteEnd - Config.byteTime) = ch.gapExpires :=
    Channel.expireGap_far rx (Nat.lt_sub_iff_add_lt.mpr far)
  have listensStill : ch.gapExpires.rxAwaitMark = false := listens
  simp only [Channel.takeByte, expired, Channel.gapExpires_expireGap, listens, listensStill, Bool.false_eq_true, if_false]

theorem Channel.framingError_waits (waits : ch.rxAwaitMark = true) : ch.framingError byteEnd = ch := if_pos waits

/-- A framing error on the receiver as the gap's expiry, if due, leaves it (R154). -/
theorem Channel.framingError_ready (listens : ch.rxAwaitMark = false) {ready : Channel}
    (expired : ch.expireGap (byteEnd - 5) = ready) :
    ch.framingError byteEnd =
      { ready with rx := .idle, rxWire := ready.rxinv, returnErrors := bump ready.returnErrors } := by
  subst expired
  exact if_neg (Bool.eq_false_iff.mp listens)

theorem Channel.gapDue_assembling (rx : ch.rx = .assembling bytes lastEnd) (now : Nat) :
    ch.gapDue now = true ↔ lastEnd + 50 ≤ now := by
  simp only [Channel.gapDue, rx]
  exact decide_eq_true_iff

theorem Channel.gapDue_idle (idle : ch.rx = .idle) (now : Nat) : ch.gapDue now = false := by
  simp only [Channel.gapDue, idle]

theorem Channel.rxAwaitMark_markReturns (ch : Channel) : ch.markReturns.rxAwaitMark = false := by
  cases inverted : ch.rxinv <;> simp [Channel.rxAwaitMark, Channel.markReturns, Channel.rxinv] at inverted ⊢

end

/-! ### The commands of a return line -/

section
variable {s : State} {c : Fin 16}

theorem exec_lineReturnedToMark_up (up : s.up = true) :
    exec (.lineReturnedToMark c) s = .next (s.setChan c (s.chan c).markReturns) :=
  congrArg Host.Outcome.next (if_pos up)

theorem exec_returnGapExpiry_up (up : s.up = true) : exec (.returnGapExpiry c) s =
    .next (if (s.chan c).gapDue s.now = true then s.setChan c (s.chan c).gapExpires else s) := by
  simp only [exec, execReturnGapExpiry, up, Bool.true_and]

theorem exec_framingError_up (up : s.up = true) :
    exec (.framingError c) s = .next (s.setChan c ((s.chan c).framingError s.now)) :=
  congrArg Host.Outcome.next (if_pos up)

theorem exec_unknownType_up (up : s.up = true) (b : Byte) :
    exec (.unknownType c b) s = .next (s.receiveByte c s.now b) :=
  congrArg Host.Outcome.next (if_pos up)

theorem exec_returnByte_up (up : s.up = true) (b : Byte) :
    exec (.returnByte c b) s = .next (s.receiveByte c s.now b) :=
  congrArg Host.Outcome.next (if_pos up)

theorem exec_status_up (up : s.up = true) (g : StatusBytes) :
    exec (.status c g) s = .next (s.receiveMessage c g.toList) :=
  congrArg Host.Outcome.next (if_pos up)

theorem State.chan_receiveByte_held {b : Byte} {byteEnd : Nat} {x : Channel}
    (taken : (s.chan c).takeByte byteEnd b = (x, none)) : (s.receiveByte c byteEnd b).chan c = x := by
  rw [State.receiveByte_held taken, State.chan_setChan_same]

end

/-! ### The check byte of a STATUS whose other bytes came one by one (R156, R157) -/

section
variable {s : State} {c : Nat} {ch : Channel}

theorem State.receiveByte_setChan_held {b : Byte} {byteEnd : Nat} {x : Channel}
    (taken : ch.takeByte byteEnd b = (x, none)) : (s.setChan c ch).receiveByte c byteEnd b = s.setChan c x := by
  simp only [State.receiveByte, State.chan_setChan_same, taken, State.setChan_setChan]

theorem State.receiveByte_setChan_valid {b : Byte} {byteEnd : Nat} {x : Channel} {r : StatusRecord}
    (taken : ch.takeByte byteEnd b = (x, some r)) :
    (s.setChan c ch).receiveByte c byteEnd b = (s.setChan c x).validStatus c r := by
  simp only [State.receiveByte, State.chan_setChan_same, taken, State.setChan_setChan]

/-- Bytes received a byte time apart, up to the seventh of a message, only lengthen what the receiver holds. `State.Receives`
says this of the channel; here it is said of the whole state, since two runs are to end in equal states (R153, R156). -/
theorem State.receiveBytes_held (listens : ch.rxAwaitMark = false) (start : Nat) (l : List Byte) {bytes : List Byte}
    {k : Nat} (short : bytes.length + l.length < 8) :
    (l.zipIdx k).foldl (fun acc p => acc.receiveByte c (start + Config.byteTime * (p.2 + 1) - 40) p.1)
        (s.setChan c { ch with rx := .assembling bytes (start + Config.byteTime * k - 40) }) =
      s.setChan c { ch with rx := .assembling (bytes ++ l) (start + Config.byteTime * (k + l.length) - 40) } := by
  induction l generalizing bytes k with
  | nil => simp
  | cons b l ih =>
    rw [List.length_cons] at short
    have held := Channel.takeByte_next (ch := { ch with rx := .assembling bytes (start + Config.byteTime * k - 40) })
      (b := b) (byteEnd := start + Config.byteTime * (k + 1) - 40) listens rfl (by simp only [Config.byteTime]; omega)
      (by omega)
    have rest := ih (bytes := bytes ++ [b]) (k := k + 1)
      (by simp only [List.length_append, List.length_singleton]; omega)
    rw [List.append_assoc, List.singleton_append, Nat.add_assoc, Nat.add_comm 1] at rest
    rw [List.zipIdx_cons, List.foldl_cons, State.receiveByte_setChan_held held]
    exact rest

/-- A STATUS on an idle, listening receiver comes to its check byte with the seven bytes before it held and nothing else
changed. -/
theorem State.receiveMessage_seven (listens : ch.rxAwaitMark = false) (idle : ch.rx = .idle) {g : StatusBytes}
    (kind : g.kind = 0xB1) :
    ∃ lastEnd, s.now ≤ lastEnd + 55 ∧ (s.setChan c ch).receiveMessage c g.toList =
      (s.setChan c { ch with rx := .assembling g.beforeCheck lastEnd }).receiveByte c s.now g.check := by
  have first := Channel.takeByte_first listens idle (s.now + Config.byteTime * 1 - 40)
  have seven := State.receiveBytes_held (s := s) (c := c) listens s.now [g.tagHigh, g.tagLow, g.digestHigh, g.digestLow,
    g.flags, g.capacity] (bytes := [g.kind]) (k := 1) (by simp)
  rw [← kind] at first
  rw [← State.receiveByte_setChan_held first] at seven
  refine ⟨s.now + Config.byteTime * 7 - 40, by simp only [Config.byteTime]; omega,
    Eq.trans ?_ (congrArg (·.receiveByte c s.now g.check) seven)⟩
  simp [State.receiveMessage, StatusBytes.toList, Config.byteTime]

end

/-- A good check byte makes the bytes held and itself the STATUS of R157, as if all eight had come together. -/
theorem State.receiveByte_check {s : State} {c : Nat} (listens : (s.chan c).rxAwaitMark = false) {g : StatusBytes}
    (kind : g.kind = 0xB1) {lastEnd : Nat} (rx : (s.chan c).rx = .assembling g.beforeCheck lastEnd)
    (near : s.now ≤ lastEnd + 55) (good : sumIsZero g.toList = true) :
    s.receiveByte c s.now g.check = (s.setChan c { s.chan c with rx := .idle }).receiveMessage c g.toList := by
  obtain ⟨together, nearTogether, received⟩ :=
    State.receiveMessage_seven (s := s) (c := c) (ch := { s.chan c with rx := .idle }) listens rfl kind
  have record : parseStatus (g.beforeCheck ++ [g.check]) = some g.record := by
    rw [g.beforeCheck_append_check, parseStatus_toList]
  have alone := Channel.takeByte_last listens rx near rfl record
  have last := Channel.takeByte_last (ch := { s.chan c with rx := .assembling g.beforeCheck together }) listens rfl
    nearTogether rfl record
  rw [received, State.receiveByte_valid (alone.trans (if_pos good)),
    State.receiveByte_setChan_valid (last.trans (if_pos good))]

/-! ### Each event on a receiver that waits for mark, is idle, or holds bytes within the gap or past it -/

/-- Settles O41. -/
theorem returnLineBytes : Obligations.ReturnLineBytes := by
  intro c s b up
  refine ⟨?mark, fun bytes lastEnd rx => ⟨fun due => ?gap, fun early => ?noGap⟩, fun idle => ?noBytes, ?bytes,
    fun g lastEnd listens kind rx near good => ?status⟩
  case mark =>
    refine ⟨_, exec_lineReturnedToMark_up up, s.chan_setChan_same c _, ?_, s.setChan_others c _, s.setChan_only c _⟩
    rw [State.chan_setChan_same]
    exact Channel.rxAwaitMark_markReturns _
  case gap =>
    rw [exec_returnGapExpiry_up up, if_pos ((Channel.gapDue_assembling rx s.now).mpr due)]
    exact ⟨_, rfl, s.chan_setChan_same c _, s.setChan_others c _, s.setChan_only c _⟩
  case noGap =>
    rw [exec_returnGapExpiry_up up, if_neg (mt (Channel.gapDue_assembling rx s.now).mp (Nat.not_le.mpr early))]
  case noBytes =>
    rw [exec_returnGapExpiry_up up, Channel.gapDue_idle idle]
    rfl
  case bytes =>
    refine ⟨_, _, _, exec_framingError_up up, exec_unknownType_up up b, exec_returnByte_up up b, s.setChan_others c _,
      s.receiveByte_others c _ b, s.receiveByte_others c _ b, s.setChan_only c _, s.receiveByte_only c _ b,
      s.receiveByte_only c _ b, fun waits => ?waits, fun listens => ⟨fun idle => ?idle,
        fun bytes lastEnd rx near => ?near, fun bytes lastEnd rx far => ?far⟩⟩
    all_goals rw [State.chan_setChan_same]
    case waits =>
      have kept := State.chan_receiveByte_held (Channel.takeByte_waits (byteEnd := s.now) (b := b) waits)
      exact ⟨Channel.framingError_waits waits, kept, kept⟩
    case idle =>
      rw [Channel.framingError_ready listens (Channel.expireGap_idle idle _), ← idle]
      refine ⟨rfl, beq_self_eq_true _, fun unknown => ?_, ?_⟩
      · exact State.chan_receiveByte_held (Channel.takeByte_unknown listens idle unknown)
      · rintro rfl
        exact State.chan_receiveByte_held (Channel.takeByte_first listens idle s.now)
    case near =>
      rw [Channel.framingError_ready listens (Channel.expireGap_near rx (Nat.sub_le_iff_le_add.mpr near))]
      exact ⟨rfl, fun short => State.chan_receiveByte_held (Channel.takeByte_next listens rx near short),
        fun long bad => State.chan_receiveByte_held
          (Channel.takeByte_bad listens rx near long (beq_eq_false_iff_ne.mpr bad))⟩
    case far =>
      rw [Channel.framingError_ready listens (Channel.expireGap_far rx (Nat.lt_sub_iff_add_lt.mpr far))]
      have listensStill : (s.chan c).gapExpires.rxAwaitMark = false := listens
      have expired := Channel.takeByte_far (b := b) listens rx far
      refine ⟨rfl, ?_, fun unknown => ⟨?_, rfl⟩⟩
      · rintro rfl
        exact State.chan_receiveByte_held (expired.trans (Channel.takeByte_first listensStill rfl s.now))
      · exact State.chan_receiveByte_held (expired.trans (Channel.takeByte_unknown listensStill rfl unknown))
  case status =>
    have stillUp : (s.setChan c { s.chan c with rx := .idle }).up = true := up
    rw [exec_returnByte_up up, exec_status_up stillUp,
      State.receiveByte_check listens kind rx near ((sumIsZero_toList g).mpr good)]

end Sys2Proof.Machine
end

section
/-! The management port's transactions (R169 to R171): what bytes make a command, what the bytes do at the port and what MDO
carries; with what holds of every command and step (log entries 1, 7 and 23). -/

namespace Sys2Proof

/-! ### A command's bytes and its code (R171) -/

theorem bytes2_joined (x : BitVec 16) : x.extractLsb' 8 8 ++ x.extractLsb' 0 8 = x := by
  rw [BitVec.extractLsb'_append_extractLsb'_eq_extractLsb' (by decide), BitVec.extractLsb'_eq_self]

/-- The bytes of a command make it again, SET PARAM with what it is told of the return line, which no byte carries. -/
theorem commandOf_bytes {c : Instr} {bytes : List Byte} (h : c.bytes = some bytes) :
    ∃ line, commandOf line bytes = some c := by
  cases c
  case unknownCommand code =>
    obtain ⟨unknown, one⟩ : argumentBytes code = none ∧ [code] = bytes := by simpa [Instr.bytes] using h
    exact ⟨none, one ▸ commandOf_unknown none unknown⟩
  all_goals cases h
  case setParam number chan value byteOnLine =>
    exact ⟨byteOnLine, congrArg (fun v => some (Instr.setParam number chan v byteOnLine)) (bytes2_joined value)⟩
  case assign chan tile level dest =>
    exact ⟨none, congrArg (fun d => some (Instr.assign chan tile level d)) (bytes2_joined dest)⟩
  case startChannels mask => exact ⟨none, congrArg (fun m => some (Instr.startChannels m)) (bytes2_joined mask)⟩
  case stopChannels mask => exact ⟨none, congrArg (fun m => some (Instr.stopChannels m)) (bytes2_joined mask)⟩
  all_goals exact ⟨none, rfl⟩

/-- What makes a command has as many argument bytes as its code asks for, and none for an unknown code (R170, R171). -/
theorem commandOf_length {line : Option Bool} {code : Byte} {args : List Byte} {c : Instr}
    (h : commandOf line (code :: args) = some c) : args.length = (argumentBytes code).getD 0 := by
  unfold commandOf at h
  dsimp only at h
  split at h
  case h_16 =>
    have unknown : argumentBytes code = none := by
      by_contra known
      cases (if_neg known).symm.trans h
    rw [unknown]
    rfl
  all_goals simp_all [argumentBytes]

/-- No beginning of a command's bytes is a command: it has the same code and fewer argument bytes. -/
theorem commandOf_take {line line' : Option Bool} {bytes : List Byte} {c : Instr} (h : commandOf line bytes = some c)
    {k : Nat} (short : k < bytes.length) : commandOf line' (bytes.take k) = none := by
  match bytes, k with
  | _, 0 => rfl
  | code :: args, k + 1 =>
    refine Option.eq_none_iff_forall_ne_some.mpr fun c' begun => ?_
    have whole := commandOf_length h
    have part := commandOf_length begun
    rw [List.length_take] at part
    rw [List.length_cons] at short
    omega

end Sys2Proof

namespace Sys2Proof.Machine

/-! ### Every command and every step (log entry 1) -/

theorem step_command {c : Instr} {rest : List Instr} {s : State} (front : s.pending = c :: rest) :
    step s = exec c { s with pending := rest } := by
  simp only [step, front]

/-- Settles O1. -/
theorem stepRunsFrontCommand : Obligations.StepRunsFrontCommand := fun _ _ _ front => step_command front

theorem exec_answers (c : Instr) (s : State) : ∃ t, exec c s = .next t := by
  cases c <;> exact ⟨_, rfl⟩

/-- The queue of waiting commands is no command's: the fall of RSTN keeps it by name, the rise takes it over with the
straps, and no other command touches it. -/
theorem exec_pending {c : Instr} {s t : State} (hx : exec c s = .next t) : t.pending = s.pending := by
  have only := exec_only hx
  cases c
  case rstnFall =>
    injection hx with hx
    exact hx ▸ keeps_guarded (P := fun u => u.pending = s.pending) _ rfl rfl
  case rstnRise pins =>
    have risen : (s.riseWith pins).pending = s.pending := (s.riseWith_moves pins).only.pending (by decide)
    injection hx with hx
    exact hx ▸ keeps_guarded (P := fun u => u.pending = s.pending) _ rfl risen
  all_goals exact only.pending (by simp [Instr.free])

/-- Settles O3. -/
theorem everyCommandAnswersNext : Obligations.EveryCommandAnswersNext := by
  intro c s
  obtain ⟨t, hx⟩ := exec_answers c s
  exact ⟨t, hx, exec_pending hx⟩

/-! ### A transaction (R169, R170) -/

section
variable {s : State} {bytes held out : List Byte}

theorem exec_transactionBegin_idle (up : s.up = true) (idle : s.mgmt.spi = .idle) :
    exec .transactionBegin s = .next { s with mgmt := { s.mgmt with spi := .transaction [] none } } :=
  congrArg Host.Outcome.next (if_pos ⟨up, idle⟩)

theorem exec_transactionBegin_open (opened : s.mgmt.spi ≠ .idle) : exec .transactionBegin s = .next s :=
  congrArg Host.Outcome.next (if_neg fun both => opened both.2)

theorem exec_transactionEnd_up (up : s.up = true) :
    exec .transactionEnd s = .next { s with mgmt := { s.mgmt with spi := .idle } } :=
  congrArg Host.Outcome.next (if_pos up)

theorem exec_unknownCommand_up (up : s.up = true) (b : Byte) : exec (.unknownCommand b) s = .next (s.unknownByte b) :=
  congrArg Host.Outcome.next (if_pos up)

/-- A byte short of a command's last is held (R169). -/
theorem State.unknownByte_held (spi : s.mgmt.spi = .transaction held none) {b : Byte}
    (short : commandOf none (held ++ [b]) = none) :
    s.unknownByte b = { s with mgmt := { s.mgmt with spi := .transaction (held ++ [b]) none } } := by
  simp only [State.unknownByte, spi, if_pos short]

theorem State.runCommand_idle (idle : s.mgmt.spi = .idle) (run : State → State × List Byte) : s.runCommand bytes run = s := by
  simp only [State.runCommand, idle]

/-- Bytes behind a command executed are ignored, and as many are shifted out (R169). -/
theorem State.runCommand_executed (spi : s.mgmt.spi = .transaction held (some out)) (run : State → State × List Byte) :
    s.runCommand bytes run = { s with mgmt := { s.mgmt with spi := .transaction held (some (out.drop bytes.length)) } } := by
  simp only [State.runCommand, spi]

theorem State.unknownByte_idle (idle : s.mgmt.spi = .idle) (b : Byte) : s.unknownByte b = s := by
  simp only [State.unknownByte, idle]

theorem State.unknownByte_executed (spi : s.mgmt.spi = .transaction held (some out)) (b : Byte) :
    s.unknownByte b = { s with mgmt := { s.mgmt with spi := .transaction held (some (out.drop 1)) } } := by
  simp only [State.unknownByte, spi, State.runCommand_executed spi, List.length_singleton]

theorem State.mdo_idle (idle : s.mgmt.spi = .idle) : s.mdo = none := by
  simp only [State.mdo, idle]

theorem State.mdo_held (spi : s.mgmt.spi = .transaction held none) : s.mdo = some 0 := by
  simp only [State.mdo, spi]

theorem State.mdo_executed (spi : s.mgmt.spi = .transaction held (some out)) :
    s.mdo = some (out.headD 0) := by
  simp only [State.mdo, spi]

end

/-! ### A command at the port (R169) -/

theorem State.runSetParam_reply (s : State) (number chan : Byte) (value : BitVec 16) (line : Option Bool) :
    (s.runSetParam number chan value line).2 ≠ [] := by
  unfold State.runSetParam State.refuse
  split
  · simp
  · dsimp only
    split_ifs <;> simp

theorem State.runGetParam_reply (s : State) (number chan : Byte) : (s.runGetParam number chan).2 ≠ [] := by
  unfold State.runGetParam State.refuse
  split
  · simp
  · split <;> simp

theorem State.runAssign_reply (s : State) (chan tile level : Byte) (dest : BitVec 16) :
    (s.runAssign chan tile level dest).2 ≠ [] := by
  unfold State.runAssign State.refuse
  split_ifs <;> simp

theorem State.runUnassign_reply (s : State) (chan tile : Byte) : (s.runUnassign chan tile).2 ≠ [] := by
  unfold State.runUnassign State.refuse
  split_ifs <;> simp

theorem State.runStart_reply (s : State) (mask : BitVec 16) : (s.runStart mask).2 ≠ [] := by
  unfold State.runStart State.refuse
  split <;> simp

theorem State.runResync_reply (s : State) : s.runResync.2 ≠ [] := by
  unfold State.runResync State.refuse
  split <;> simp

/-- `run` is what command c does: with RSTN high its bytes run it at the port, and it answers with a status byte at least. -/
structure Instr.RunsAs (c : Instr) (bytes : List Byte) (run : State → State × List Byte) : Prop where
  exec_eq : ∀ s, exec c s = .next (if s.up then s.runCommand bytes run else s)
  reply : ∀ s, (run s).2 ≠ []

theorem runsAs {c : Instr} {bytes : List Byte} (h : c.bytes = some bytes) (known : ∀ code, c ≠ .unknownCommand code) :
    ∃ run, Instr.RunsAs c bytes run := by
  have refusable : ∀ (p : Prop) [Decidable p] (x : State) (status : Byte) (data : List Byte),
      (if p then x.refuse status else (x, statusDone :: data)).2 ≠ [] := by
    intro p _ x status data
    split
    · exact List.cons_ne_nil _ _
    · exact List.cons_ne_nil _ _
  cases c
  case unknownCommand code => exact absurd rfl (known code)
  all_goals cases h
  case readFault cls => exact ⟨_, fun _ => rfl, fun x => refusable _ x _ _⟩
  case readTile chan tile => exact ⟨_, fun _ => rfl, fun x => refusable _ x _ _⟩
  case readChannel chan => exact ⟨_, fun _ => rfl, fun x => refusable _ x _ _⟩
  case setParam number chan value line => exact ⟨_, fun _ => rfl, fun x => x.runSetParam_reply number chan value line⟩
  case getParam number chan => exact ⟨_, fun _ => rfl, fun x => x.runGetParam_reply number chan⟩
  case assign chan tile level dest => exact ⟨_, fun _ => rfl, fun x => x.runAssign_reply chan tile level dest⟩
  case unassign chan tile => exact ⟨_, fun _ => rfl, fun x => x.runUnassign_reply chan tile⟩
  case startChannels mask => exact ⟨_, fun _ => rfl, fun x => x.runStart_reply mask⟩
  case resync => exact ⟨_, fun _ => rfl, fun x => x.runResync_reply⟩
  all_goals exact ⟨_, fun _ => rfl, fun _ => List.cons_ne_nil _ _⟩

/-- The three situations in which the bytes of a command come: awaited, at an idle port, behind a command executed. -/
structure Instr.AtPort (c : Instr) (bytes : List Byte) (s : State) : Prop where
  awaited : s.Awaits bytes → ∃ t reply, exec c s = .next t ∧ t.mgmt.spi = .transaction bytes (some reply) ∧ reply ≠ []
  idle : s.mgmt.spi = .idle → exec c s = .next s
  executed : ∀ held out, s.up = true → s.mgmt.spi = .transaction held (some out) →
    exec c s = .next { s with mgmt := { s.mgmt with spi := .transaction held (some (out.drop bytes.length)) } }

theorem Instr.RunsAs.atPort {c : Instr} {bytes : List Byte} {run : State → State × List Byte} (h : Instr.RunsAs c bytes run)
    (s : State) : Instr.AtPort c bytes s where
  awaited awaits :=
    ⟨_, (run s).2, by rw [h.exec_eq, State.command_awaits awaits], rfl, h.reply s⟩
  idle idle := by rw [h.exec_eq, State.runCommand_idle idle, ite_self]
  executed held out up spi := by rw [h.exec_eq, if_pos up, State.runCommand_executed spi]

/-- A code that is not in the table is a command of its own, of one byte (R170). -/
theorem unknownCommand_atPort {code : Byte} (unknown : argumentBytes code = none) (s : State) :
    Instr.AtPort (.unknownCommand code) [code] s where
  awaited awaits := ⟨_, [statusCode], exec_unknownCommand_awaits unknown awaits, rfl, List.cons_ne_nil _ _⟩
  idle idle := congrArg Host.Outcome.next (by rw [State.unknownByte_idle idle, ite_self])
  executed held out up spi := by rw [exec_unknownCommand_up up, State.unknownByte_executed spi, List.length_singleton]

theorem atPort {c : Instr} {bytes : List Byte} (h : c.bytes = some bytes) (s : State) : Instr.AtPort c bytes s := by
  by_cases named : ∃ code, c = .unknownCommand code
  · obtain ⟨code, rfl⟩ := named
    obtain ⟨unknown, rfl⟩ : argumentBytes code = none ∧ [code] = bytes := by simpa [Instr.bytes] using h
    exact unknownCommand_atPort unknown s
  · obtain ⟨run, runs⟩ := runsAs h (not_exists.mp named)
    exact runs.atPort s

/-- Settles O42. -/
theorem transactionFrame : Obligations.TransactionFrame := by
  refine ⟨fun s up => ⟨fun idle => ⟨exec_transactionBegin_idle up idle, State.mdo_idle idle⟩, exec_transactionBegin_open,
    exec_transactionEnd_up up, fun held spi => ⟨State.mdo_held spi, fun b short => ?held⟩,
    fun held out spi => ⟨?mdo, fun b => ?executed⟩⟩, fun c bytes h => ?command⟩
  case held => rw [exec_unknownCommand_up up, State.unknownByte_held spi short]
  case mdo =>
    rw [State.mdo_executed spi]
    cases out <;> rfl
  case executed => rw [exec_unknownCommand_up up, State.unknownByte_executed spi]
  case command =>
    obtain ⟨line, whole⟩ := commandOf_bytes h
    refine ⟨⟨line, whole⟩, fun _ k short => commandOf_take whole short, fun s => ?_⟩
    obtain ⟨awaited, idle, executed⟩ := atPort h s
    exact ⟨awaited, idle, executed⟩

end Sys2Proof.Machine
end

section
/-! The management commands on the event bits, the shadow and the whole part (R175 to R177): the mask and MIRQ, RESYNC, and SOFT
RESET field by field. -/

namespace Sys2Proof.Machine

/-! ### The event bits, the mask and MIRQ (R175) -/

theorem exec_setIrqMask_awaits {mask : Byte} {s : State} (h : s.Awaits [0x05, mask]) :
    exec (.setIrqMask mask) s =
      .next (State.replied { s with mgmt := { s.mgmt with irqMask := mask } } [0x05, mask] [0x00]) :=
  congrArg Host.Outcome.next (State.command_awaits h _)

theorem State.eventBit_class (s : State) {n : Nat} (hn : n < 6) : s.eventBit n = (s.classState n).pending := if_pos hn

theorem getLsbD_append_ofBool_zero {w : Nat} (x : BitVec w) (b : Bool) : (x ++ BitVec.ofBool b).getLsbD 0 = b := by
  rw [BitVec.getLsbD_append]
  simp

theorem getLsbD_append_ofBool_succ {w : Nat} (x : BitVec w) (b : Bool) (n : Nat) :
    (x ++ BitVec.ofBool b).getLsbD (n + 1) = x.getLsbD n := by
  rw [BitVec.getLsbD_append]
  simp

/-- Bit n of the event byte is event bit n. -/
theorem State.getLsbD_eventBits (s : State) {n : Nat} (hn : n < 8) : s.eventBits.getLsbD n = s.eventBit n := by
  unfold State.eventBits
  interval_cases n <;> simp only [getLsbD_append_ofBool_zero, getLsbD_append_ofBool_succ, BitVec.getLsbD_ofBool,
    decide_true, Bool.true_and]

/-- Some bit is set in both of two words exactly when their conjunction is not 0. -/
theorem and_ne_zero_iff {w : Nat} (x y : BitVec w) :
    x &&& y ≠ 0 ↔ ∃ n, n < w ∧ x.getLsbD n = true ∧ y.getLsbD n = true := by
  have bit : ∀ n, (x &&& y).getLsbD n = (x.getLsbD n && y.getLsbD n) := fun n => BitVec.getLsbD_and ..
  have zero : x &&& y = 0 ↔ ∀ n, n < w → (x &&& y).getLsbD n = false := by
    simpa using BitVec.eq_of_getLsbD_eq_iff (x := x &&& y) (y := 0)
  rw [Ne, zero]
  push Not
  simp only [bit, ne_eq, Bool.not_eq_false, Bool.and_eq_true]

theorem State.mirqLow_iff {s : State} (up : s.up = true) :
    s.mirqLow = true ↔ ∃ n, n < 8 ∧ s.eventBit n = true ∧ s.mgmt.irqMask.getLsbD n = true := by
  rw [State.mirqLow, up, Bool.true_and, bne_iff_ne, and_ne_zero_iff]
  refine exists_congr fun n => and_congr_right fun hn => ?_
  rw [s.getLsbD_eventBits hn]

/-- Settles O45. -/
theorem irqMaskAndMirq : Obligations.IrqMaskAndMirq :=
  ⟨fun _ _ awaits => exec_setIrqMask_awaits awaits, fun _ up => State.mirqLow_iff up,
    fun s => ⟨fun _ hn => s.eventBit_class hn, rfl, rfl⟩⟩

/-! ### RESYNC (R176) -/

/-- The sweep restarts at the first crosspoint word while the tracker is live (R62). -/
theorem State.restartSweep_live {s : State} (live : s.device = .operating ∨ s.device = .halted) :
    s.restartSweep = { s with fetch := { s.fetch with
      sweep := .running .crosspoint (BitVec.ofNat 22 (s.straps.xbase.toNat * 16384)) } } :=
  if_pos (by simpa [State.live] using live)

theorem State.restartSweep_selftest {s : State} (selftest : s.device = .selftest) : s.restartSweep = s :=
  if_neg (by simp [State.live, selftest])

theorem exec_resync_awaits {s t : State} {reply : List Byte} (h : s.Awaits [0x40]) (answer : s.runResync = (t, reply)) :
    exec .resync s = .next (t.replied [0x40] reply) :=
  congrArg Host.Outcome.next ((State.command_awaits h _).trans (by rw [answer]))

theorem State.runResync_selftest {s : State} (selftest : s.device = .selftest) : s.runResync = (s, [statusState]) :=
  if_pos selftest

theorem State.runResync_live {s : State} (live : s.device = .operating ∨ s.device = .halted) :
    s.runResync = ({ s with
      shadow := s.shadow.downgrade
      fetch := { s.fetch with sweep := .running .crosspoint (BitVec.ofNat 22 (s.straps.xbase.toNat * 16384)) } },
      [statusDone]) := by
  have notSelftest : s.device ≠ .selftest := by
    rintro selftest
    simp [selftest] at live
  have lowered : ({ s with shadow := s.shadow.downgrade } : State).device = .operating ∨
    ({ s with shadow := s.shadow.downgrade } : State).device = .halted := live
  rw [State.runResync, if_neg notSelftest, State.restartSweep_live lowered]

/-- Settles O51. -/
theorem resyncDowngradesAndRestarts : Obligations.ResyncDowngradesAndRestarts := fun _ awaits =>
  ⟨fun selftest => exec_resync_awaits awaits (State.runResync_selftest selftest),
    fun live => exec_resync_awaits awaits (State.runResync_live live)⟩

/-! ### SOFT RESET (R177) -/

section
variable (s : State)

theorem State.softReset_shadow : s.softReset.shadow = { crosspoints := [], names := [] } :=
  (State.restartSweep_only _).shadow (by decide)

/-- Every region read in flight is marked stale; the port and the accesses are otherwise as they were. -/
theorem State.softReset_memPort :
    s.softReset.memPort = { s.memPort with inflight := s.memPort.inflight.map fun e =>
      match e.op with
      | .read stale => { e with op := .read (stale || decide (e.region ≠ .outside)) }
      | .write _ _ => e } := by
  have marked : s.softReset.memPort = { s.memPort with inflight := s.memPort.inflight.map fun (e : Access) =>
      if e.region = .outside then e else e.stale } := (State.restartSweep_only _).memPort (by decide)
  have mark : ∀ e : Access, (if e.region = .outside then e else e.stale) = if e.region ≠ .outside then e.stale else e :=
    fun e => (ite_not ..).symm
  rw [marked]
  exact congrArg (fun l => { s.memPort with inflight := l })
    (List.map_congr_left fun e _ => (mark e).trans (e.stale_if _))

theorem State.softReset_gather : s.softReset.gather = { dirty := [], takeQueue := [], late := 0, bounced := 0 } :=
  (State.restartSweep_only _).gather (by decide)

theorem State.softReset_fanout : s.softReset.fanout = none := (State.restartSweep_only _).fanout (by decide)

theorem State.softReset_mgmt : s.softReset.mgmt = { s.mgmt with reference := false, sweep := false } :=
  (State.restartSweep_only _).mgmt (by decide)

theorem State.softReset_reread : s.softReset.fetch.reread = [] := State.restartSweep_reread _

variable {s} in
theorem State.softReset_sweep_live (live : s.device = .operating ∨ s.device = .halted) :
    s.softReset.fetch.sweep = .running .crosspoint (BitVec.ofNat 22 (s.straps.xbase.toNat * 16384)) :=
  by
  rw [State.softReset, State.restartSweep_live]
  · rfl
  · exact live

variable {s} in
theorem State.softReset_sweep_selftest (selftest : s.device = .selftest) : s.softReset.fetch.sweep = .idle :=
  by
  rw [State.softReset, State.restartSweep_selftest]
  · rfl
  · exact selftest

theorem State.chan_softReset {c : Nat} (hc : c < 16) :
    s.softReset.chan c = ((s.chan c).mapTiles fun x => x.softReset s.frame.count).stopEffects :=
  ((State.restartSweep_only _).chan (by decide) c).trans ((State.chan_mapChans ..).trans (if_pos hc))

/-- Nothing is tracked with every entry UNKNOWN. -/
theorem State.tracked_softReset (e : Entry) : s.softReset.tracked e = .unknown := by
  cases e <;> simp only [State.tracked, State.crosspointQuality, State.nameQuality, s.softReset_shadow, Table.get_nil] <;> rfl

end

/-- The stop effects on other tile records differ in the tile records only. -/
theorem Channel.stopEffects_mapTiles (ch : Channel) (f : Tile → Tile) :
    (ch.mapTiles f).stopEffects = { ch.stopEffects with tiles := (ch.mapTiles f).stopEffects.tiles } := rfl

theorem Tile.softReset_eq (x : Tile) (f : BitVec 32) :
    x.softReset f = { x with current := if x.assignment = none then .unassigned else .unknown, take := f } := by
  obtain ⟨assignment, current, take, lastSent⟩ := x
  cases assignment <;> rfl

/-- A tile at SOFT RESET: unknown or unassigned by its slot, with take number F, and nothing last sent (R177). -/
theorem Channel.softReset_tile (ch : Channel) (f : BitVec 32) {j : Nat} (hj : j < 64) :
    (ch.mapTiles fun x => x.softReset f).stopEffects.tile j = { ch.tile j with
      current := if (ch.tile j).assignment = none then .unassigned else .unknown
      take := f
      lastSent := .unassigned } := by
  have inRange : j < Config.tilesPerChannel := hj
  rw [Channel.stopEffects_tile, if_pos inRange, Channel.tile_mapTiles, if_pos inRange, Tile.softReset_eq]

theorem exec_softReset_awaits {s : State} (h : s.Awaits [0x7E]) :
    exec .softReset s = .next (s.softReset.replied [0x7E] [0x00]) :=
  congrArg Host.Outcome.next (State.command_awaits h _)

/-- Settles O52. -/
theorem softResetClearsAndKeeps : Obligations.SoftResetClearsAndKeeps := by
  intro s awaits
  refine ⟨_, exec_softReset_awaits awaits, s.softReset_shadow, s.softReset_memPort, s.softReset_reread,
    State.softReset_sweep_live, State.softReset_sweep_selftest, s.softReset_gather, s.softReset_fanout,
    s.classState_softReset, ?mgmt, fun c hc => ?chan, s.tracked_softReset, ?frame⟩
  case mgmt => rw [State.replied, s.softReset_mgmt]
  case frame => exact s.softReset_only.trans ((State.setMgmt_only _ _).mono (by decide))
  case chan =>
    rw [State.chan_replied, s.chan_softReset hc]
    exact ⟨Channel.stopEffects_mapTiles .., fun j hj => Channel.softReset_tile _ _ hj⟩

end Sys2Proof.Machine
end
